-- ==== Sys2Proof/Word.lean ====
section
/-! DEFINITION. The word types of U256-CORE (spec/00_scope.md R7 to R9) and the two port-level types that
every later file names: the direction of a transfer (R311) and a host transaction (R300). -/

namespace Sys2Proof

/-- A 256-bit register value (R9). Every value is unsigned. -/
abbrev U256 := BitVec 256

/-- One of the two 128-bit halves of a value (R9). -/
abbrev Limb := BitVec 128

/-- One byte of a 32-byte transfer (R211, R212). -/
abbrev Byte := BitVec 8

/-- The 32-bit command word that an EXEC carries (R330). -/
abbrev CommandWord := BitVec 32

/-- The number of a general register, `x0` to `x15` (R101, R331). -/
abbrev RegIdx := Fin 16

/-- The direction of a LOAD or STORE: header bit `e` = 0 is Big, 1 is Little (R210, R311). -/
inductive Direction
  | big
  | little
deriving DecidableEq, Repr

/-- One transaction as the host port carries it: the 7-bit header, and the two payload fields that travel
with it (R300). -/
structure Transaction where
  header : BitVec 7
  data   : BitVec 256
  cmd    : CommandWord
deriving DecidableEq, Repr

end Sys2Proof
end

