-- ==== Sys2Proof/Syntax.lean ====
section
/-! DEFINITION. The instructions: one constructor for every row of spec/opcode_table.json. The operand order is
the assembler's (spec/30_encoding.md R340). -/

namespace Sys2Proof

/-- Four host transactions (R300), eleven commands (R333), the illegal command word (R334), and the two
pseudo-instructions (R341). -/
inductive Instr
  /-- LOAD (R400): header field `reg`, direction `e`, the 256-bit `data` payload. -/
  | load (r : RegIdx) (e : Direction) (data : BitVec 256)
  /-- STORE (R410): header field `reg`, direction `e`. -/
  | store (r : RegIdx) (e : Direction)
  /-- EXEC (R336): the command word in the payload `cmd`. -/
  | exec (cmd : CommandWord)
  /-- RDSTATUS (R420). -/
  | rdstatus
  /-- ADD (R450), opcode 0x01. -/
  | add (rd rs1 rs2 : RegIdx)
  /-- SUB (R470), opcode 0x02. -/
  | sub (rd rs1 rs2 : RegIdx)
  /-- MUL (R500), opcode 0x03. -/
  | mul (rd rs1 rs2 : RegIdx)
  /-- DIV (R570), opcode 0x04. -/
  | div (rd rs1 rs2 : RegIdx)
  /-- DIVREM (R580), opcode 0x05; `rd` and `rd2` must differ. -/
  | divrem (rd rd2 rs1 rs2 : RegIdx)
  /-- SHL (R610), opcode 0x06. -/
  | shl (rd rs1 rs2 : RegIdx)
  /-- SHR (R620), opcode 0x07. -/
  | shr (rd rs1 rs2 : RegIdx)
  /-- OR (R650), opcode 0x08. -/
  | or (rd rs1 rs2 : RegIdx)
  /-- CMP (R670), opcode 0x09. -/
  | cmp (rs1 rs2 : RegIdx)
  /-- BITAT (R430), opcode 0x0A. -/
  | bitat (rs1 rs2 : RegIdx)
  /-- SETBIT (R440), opcode 0x0B. -/
  | setbit (rd rs1 rs2 : RegIdx)
  /-- A command word that R334 calls illegal, kept whole. -/
  | illegal (w : CommandWord)
  /-- `MV rd, rs`: another spelling of `OR rd, rs, rs` (R341). -/
  | mv (rd rs : RegIdx)
  /-- `CLR rd`: another spelling of `SUB rd, rd, rd` (R341). -/
  | clr (rd : RegIdx)
deriving DecidableEq, Repr

end Sys2Proof
end

