-- ==== Sys2Proof/WellFormed.lean ====
section
/-! DEFINITION. Which terms of `Instr` stand for an instruction of the hardware. The register fields are in range
by their type; two constructors carry a further condition (spec/30_encoding.md R332, R334). -/

namespace Sys2Proof

/-- R334 as it is worded: the four conditions, any of which makes a command word illegal. Written apart from the
decoder, which follows the pseudocode of R335, so that the two can be compared. -/
def illegalWord (w : CommandWord) : Bool :=
  let opcode := w.extractLsb' 0 8
  let rd     := w.extractLsb' 8 4
  let rd2    := w.extractLsb' 20 4
  let classR2 := opcode = 0x09#8 ∨ opcode = 0x0A#8
  let classR4 := opcode = 0x05#8
  -- 1. an opcode outside the map
  decide (opcode = 0x00#8 ∨ 0x0C#8 ≤ opcode)
  -- 2. the reserved bits
  || decide (w.extractLsb' 24 8 ≠ 0#8)
  -- 3. a field that R332 says must be 0: `rd2` outside class R4, and `rd` in class R2
  || decide (¬ classR4 ∧ rd2 ≠ 0#4)
  || decide (classR2 ∧ rd ≠ 0#4)
  -- 4. DIVREM with one destination for both results
  || decide (classR4 ∧ rd = rd2)

/-- The side conditions: DIVREM's two destinations differ (R332), and `illegal` holds an illegal word (R334). -/
def Instr.wellFormed : Instr → Bool
  | .load _ _ _        => true
  | .store _ _         => true
  | .exec _            => true
  | .rdstatus          => true
  | .add _ _ _         => true
  | .sub _ _ _         => true
  | .mul _ _ _         => true
  | .div _ _ _         => true
  | .divrem rd rd2 _ _ => decide (rd ≠ rd2)
  | .shl _ _ _         => true
  | .shr _ _ _         => true
  | .or _ _ _          => true
  | .cmp _ _           => true
  | .bitat _ _         => true
  | .setbit _ _ _      => true
  | .illegal w         => illegalWord w
  | .mv _ _            => true
  | .clr _             => true

end Sys2Proof
end

