-- ==== Sys2Proof/Decode.lean ====
section
/-! DEFINITION. Reading and writing the two encodings of spec/30_encoding.md: the 7-bit transaction header
(R300, R311) and the 32-bit command word (R330 to R335). Decoding is total; an illegal command word is an
instruction of its own, rejected with the cause R334 gives. The encoder follows it. -/

namespace Sys2Proof

/-! ### The fields of a command word (R330) -/

def wordOpcode (w : CommandWord) : BitVec 8 := w.extractLsb' 0 8
def wordRd (w : CommandWord) : RegIdx := (w.extractLsb' 8 4).toFin
def wordRs1 (w : CommandWord) : RegIdx := (w.extractLsb' 12 4).toFin
def wordRs2 (w : CommandWord) : RegIdx := (w.extractLsb' 16 4).toFin
def wordRd2 (w : CommandWord) : RegIdx := (w.extractLsb' 20 4).toFin
def wordReserved (w : CommandWord) : BitVec 8 := w.extractLsb' 24 8

/-- Why a command word is illegal: the conditions of R334, in the order in which R335 tests them. -/
inductive IllegalCause
  /-- `w[31:24] ≠ 0`. -/
  | reservedBits
  /-- A field that R332 says must be 0 is not 0. -/
  | unusedField
  /-- DIVREM with `rd = rd2`. -/
  | sameDestination
  /-- Opcode 0x00 or 0x0C..0xFF. -/
  | unknownOpcode
deriving DecidableEq, Repr

/-- Class R3 (R335): `rd2` must be 0. -/
def decodeR3 (w : CommandWord) (op : RegIdx → RegIdx → RegIdx → Instr) : Except IllegalCause Instr :=
  if wordRd2 w ≠ 0 then .error .unusedField else .ok (op (wordRd w) (wordRs1 w) (wordRs2 w))

/-- Class R4 (R335): `rd` and `rd2` must differ. -/
def decodeR4 (w : CommandWord) (op : RegIdx → RegIdx → RegIdx → RegIdx → Instr) : Except IllegalCause Instr :=
  if wordRd w = wordRd2 w then .error .sameDestination
  else .ok (op (wordRd w) (wordRd2 w) (wordRs1 w) (wordRs2 w))

/-- Class R2 (R335): `rd` and `rd2` must be 0. -/
def decodeR2 (w : CommandWord) (op : RegIdx → RegIdx → Instr) : Except IllegalCause Instr :=
  if wordRd w ≠ 0 ∨ wordRd2 w ≠ 0 then .error .unusedField else .ok (op (wordRs1 w) (wordRs2 w))

/-- The decoder of R335, with the opcode map of R333. -/
def decodeWord (w : CommandWord) : Except IllegalCause Instr :=
  if wordReserved w ≠ 0#8 then .error .reservedBits
  else match (wordOpcode w).toNat with
    | 0x01 => decodeR3 w .add
    | 0x02 => decodeR3 w .sub
    | 0x03 => decodeR3 w .mul
    | 0x04 => decodeR3 w .div
    | 0x05 => decodeR4 w .divrem
    | 0x06 => decodeR3 w .shl
    | 0x07 => decodeR3 w .shr
    | 0x08 => decodeR3 w .or
    | 0x09 => decodeR2 w .cmp
    | 0x0A => decodeR2 w .bitat
    | 0x0B => decodeR3 w .setbit
    | _    => .error .unknownOpcode

/-- The command that a word stands for; a word that R335 calls ILLEGAL stands for `illegal`. -/
def decodeCommand (w : CommandWord) : Instr :=
  match decodeWord w with
  | .ok i    => i
  | .error _ => .illegal w

/-! ### The fields of a header (R300) -/

def headerKind (h : BitVec 7) : BitVec 2 := h.extractLsb' 0 2
def headerReg (h : BitVec 7) : RegIdx := (h.extractLsb' 2 4).toFin
def headerDirection (h : BitVec 7) : Direction := if h.getLsbD 6 then .little else .big

/-- The transaction kinds of R300, EXEC's command word read by `onExec`. Every 7-bit header is a valid
transaction, and a field that a kind ignores is not read. -/
def decodeKind (onExec : CommandWord → Instr) (t : Transaction) : Instr :=
  match (headerKind t.header).toNat with
  | 0 => .load (headerReg t.header) (headerDirection t.header) t.data
  | 1 => .store (headerReg t.header) (headerDirection t.header)
  | 2 => onExec t.cmd
  | _ => .rdstatus

/-- What the port takes a transaction for (R300): the first of the two decodings. -/
def decodeTransaction (t : Transaction) : Instr := decodeKind .exec t

/-- Both decodings: an EXEC is read through to its command. -/
def decode (t : Transaction) : Instr := decodeKind decodeCommand t

/-! ### The encoder -/

/-- The number of `r` in a 32-bit word, at bit `lo`. -/
def placeReg (r : RegIdx) (lo : Nat) : CommandWord := BitVec.ofNat 32 r.val <<< lo

/-- The word formula of R340: `(rd2 << 20) | (rs2 << 16) | (rs1 << 12) | (rd << 8) | opcode`. -/
def commandWord (opcode : CommandWord) (rd rd2 rs1 rs2 : RegIdx) : CommandWord :=
  placeReg rd2 20 ||| placeReg rs2 16 ||| placeReg rs1 12 ||| placeReg rd 8 ||| opcode

/-- The command word of an instruction, in the `cmd` payload. LOAD, STORE and RDSTATUS have none: the port
ignores their `cmd` (R300), and the encoder sends 0. -/
def encodeCommand : Instr → CommandWord
  | .load _ _ _            => 0
  | .store _ _             => 0
  | .exec w                => w
  | .rdstatus              => 0
  | .add rd rs1 rs2        => commandWord 0x01 rd 0 rs1 rs2
  | .sub rd rs1 rs2        => commandWord 0x02 rd 0 rs1 rs2
  | .mul rd rs1 rs2        => commandWord 0x03 rd 0 rs1 rs2
  | .div rd rs1 rs2        => commandWord 0x04 rd 0 rs1 rs2
  | .divrem rd rd2 rs1 rs2 => commandWord 0x05 rd rd2 rs1 rs2
  | .shl rd rs1 rs2        => commandWord 0x06 rd 0 rs1 rs2
  | .shr rd rs1 rs2        => commandWord 0x07 rd 0 rs1 rs2
  | .or rd rs1 rs2         => commandWord 0x08 rd 0 rs1 rs2
  | .cmp rs1 rs2           => commandWord 0x09 0 0 rs1 rs2
  | .bitat rs1 rs2         => commandWord 0x0A 0 0 rs1 rs2
  | .setbit rd rs1 rs2     => commandWord 0x0B rd 0 rs1 rs2
  | .illegal w             => w
  | .mv rd rs              => commandWord 0x08 rd 0 rs rs
  | .clr rd                => commandWord 0x02 rd 0 rd rd

def directionBit : Direction → BitVec 7
  | .big    => 0
  | .little => 1

/-- A header from its three fields (R300). -/
def headerWord (kind : BitVec 7) (r : RegIdx) (e : Direction) : BitVec 7 :=
  directionBit e <<< 6 ||| BitVec.ofNat 7 r.val <<< 2 ||| kind

/-- The header of an instruction. Every command travels in an EXEC, whose `reg` and `e` are ignored and sent
as 0. -/
def encodeHeader : Instr → BitVec 7
  | .load r e _     => headerWord 0 r e
  | .store r e      => headerWord 1 r e
  | .exec _         => headerWord 2 0 .big
  | .rdstatus       => headerWord 3 0 .big
  | .add _ _ _      => headerWord 2 0 .big
  | .sub _ _ _      => headerWord 2 0 .big
  | .mul _ _ _      => headerWord 2 0 .big
  | .div _ _ _      => headerWord 2 0 .big
  | .divrem _ _ _ _ => headerWord 2 0 .big
  | .shl _ _ _      => headerWord 2 0 .big
  | .shr _ _ _      => headerWord 2 0 .big
  | .or _ _ _       => headerWord 2 0 .big
  | .cmp _ _        => headerWord 2 0 .big
  | .bitat _ _      => headerWord 2 0 .big
  | .setbit _ _ _   => headerWord 2 0 .big
  | .illegal _      => headerWord 2 0 .big
  | .mv _ _         => headerWord 2 0 .big
  | .clr _          => headerWord 2 0 .big

/-- The `data` payload: LOAD's bytes, and 0 where the port ignores it (R300). -/
def encodeData : Instr → BitVec 256
  | .load _ _ data  => data
  | .store _ _      => 0
  | .exec _         => 0
  | .rdstatus       => 0
  | .add _ _ _      => 0
  | .sub _ _ _      => 0
  | .mul _ _ _      => 0
  | .div _ _ _      => 0
  | .divrem _ _ _ _ => 0
  | .shl _ _ _      => 0
  | .shr _ _ _      => 0
  | .or _ _ _       => 0
  | .cmp _ _        => 0
  | .bitat _ _      => 0
  | .setbit _ _ _   => 0
  | .illegal _      => 0
  | .mv _ _         => 0
  | .clr _          => 0

/-- The transaction that carries an instruction. -/
def encode (i : Instr) : Transaction :=
  { header := encodeHeader i, data := encodeData i, cmd := encodeCommand i }

/-- R341: the command that a pseudo-instruction is another spelling of, and, for EXEC, the command in its word.
This is what the decoder gives back for the instruction's own words. -/
def Instr.expand : Instr → Instr
  | .mv rd rs            => .or rd rs rs
  | .clr rd              => .sub rd rd rd
  | .exec w              => decodeCommand w
  | .load r e data       => .load r e data
  | .store r e           => .store r e
  | .rdstatus            => .rdstatus
  | .add rd rs1 rs2      => .add rd rs1 rs2
  | .sub rd rs1 rs2      => .sub rd rs1 rs2
  | .mul rd rs1 rs2      => .mul rd rs1 rs2
  | .div rd rs1 rs2      => .div rd rs1 rs2
  | .divrem rd rd2 rs1 rs2 => .divrem rd rd2 rs1 rs2
  | .shl rd rs1 rs2      => .shl rd rs1 rs2
  | .shr rd rs1 rs2      => .shr rd rs1 rs2
  | .or rd rs1 rs2       => .or rd rs1 rs2
  | .cmp rs1 rs2         => .cmp rs1 rs2
  | .bitat rs1 rs2       => .bitat rs1 rs2
  | .setbit rd rs1 rs2   => .setbit rd rs1 rs2
  | .illegal w           => .illegal w

/-- Which instructions travel in an EXEC's command word (R333, R334, R341). -/
def Instr.isCommand : Instr → Bool
  | .load _ _ _     => false
  | .store _ _      => false
  | .exec _         => false
  | .rdstatus       => false
  | .add _ _ _      => true
  | .sub _ _ _      => true
  | .mul _ _ _      => true
  | .div _ _ _      => true
  | .divrem _ _ _ _ => true
  | .shl _ _ _      => true
  | .shr _ _ _      => true
  | .or _ _ _       => true
  | .cmp _ _        => true
  | .bitat _ _      => true
  | .setbit _ _ _   => true
  | .illegal _      => true
  | .mv _ _         => true
  | .clr _          => true

/-! ### The opcode table's numbering -/

/-- The transaction that carries a row of spec/opcode_table.json: a HDR7 row (7 bits, one whole byte) is a header
with both payloads 0, and a CMD32 row is the command word of an EXEC (DESIGN CHOICE, notes/assumptions/8.md). -/
def tableTransaction (nbits w : Nat) : Transaction :=
  if nbits ≤ 8 then { header := BitVec.ofNat 7 w, data := 0, cmd := 0 }
  else { header := headerWord 2 0 .big, data := 0, cmd := BitVec.ofNat 32 w }

/-- The instruction the decoder reads from a table row's bits. A row of 32 bits is a command word, which is read
to its command; a row of 7 or 8 bits is a header. No other length is an encoding of this hardware (R337). -/
def decodeTableWord (nbits w : Nat) : Option Instr :=
  if (nbits = 7 ∨ nbits = 8) ∧ w < 2 ^ 7 then some (decodeTransaction (tableTransaction nbits w))
  else if nbits = 32 ∧ w < 2 ^ 32 then some (decodeCommand (BitVec.ofNat 32 w))
  else none

end Sys2Proof
end

