-- ==== Sys2Proof/Config.lean ====
section
/-! DEFINITION. What is fixed for the machine: the implementation parameters of spec/00_scope.md R7, and the
free values, which have no body (notes/assumptions/1.md and 2.md). -/

namespace Sys2Proof

/-- The hidden working registers of the division engine (R131). They are never visible on the port. -/
structure DivEngine where
  dvnd : BitVec 256
  dvsr : BitVec 256
  remr : BitVec 256
  quor : BitVec 256
  cnt  : BitVec 9
deriving DecidableEq, Repr, Inhabited

namespace Config

/-- `NREGS`: the general registers `x0` to `x15` (R7, R101). -/
abbrev numRegs : Nat := 16

/-- `DIV_ITER`: the division loop runs exactly this often (R7, R560). -/
abbrev divIterations : Nat := 256

/-- `SHIFT_ZERO_LIMIT`: the first shift count that gives zero (R7, R600). -/
abbrev shiftZeroLimit : Nat := 256

/-- `BIT_INDEX_LIMIT`: the first illegal bit index (R7, R430). -/
abbrev bitIndexLimit : Nat := 256

/-- The part of the OPEN parameter `MUL_LATENCY` above its least value 1 (R7, R830): a free value. -/
opaque mulLatencyAboveOne : Nat

/-- `MUL_LATENCY`, in clock cycles: OPEN, at least 1 (R7, R830). Only the signal-level layer reads it. -/
def mulLatency : Nat := mulLatencyAboveOne + 1

/-- What the division engine's working registers hold once a division is over: any value (I7 of
spec/93_implementation_defined.md), a fresh one for each division. A free value. -/
opaque engineAfter : Nat → DivEngine

end Config
end Sys2Proof
end

