-- ==== Sys2Proof/Machine/State.lean ====
section
/-! DEFINITION. The state of U256-CORE (spec/10_state.md), as plain data, and the state after reset (R140).
There is no memory (R200), no program counter (R103) and no privilege mode (R720), so State has none. -/

namespace Sys2Proof.Machine

/-- The causes of a fault, codes 1 to 6 of R121 and R700. Code 0, NONE, is the absence of one. -/
inductive FaultCause
  | addOverflow
  | subOverflow
  | mulOverflow
  | divByZero
  | badIndex
  | illegalCommand
deriving DecidableEq, Repr

/-- The fields of STATUS (R120). `fault` is the FAULT field: `none` is code 0. The reserved bits, hardwired 0,
are not stored: reading STATUS whole (`Status.toWord`) gives them as 0. -/
structure Status where
  halted : Bool
  lt     : Bool
  eq     : Bool
  gt     : Bool
  bit    : Bool
  fault  : Option FaultCause
deriving DecidableEq, Repr

/-- The response codes of R312. Code 3 is reserved and never sent, so it is no constructor. -/
inductive ResponseCode
  | ok
  | faulted
  | halted
deriving DecidableEq, Repr

/-- One response on the port (R312). -/
structure Response where
  code  : ResponseCode
  rdata : BitVec 256
deriving DecidableEq, Repr

/-- What the host does to the block (R100): it sends a transaction, or it asserts reset (R801). -/
inductive HostEvent
  | request (t : Transaction)
  | reset
deriving DecidableEq, Repr

/-- The reasons for which the machine itself would stop without a next state. There are none: every fault of the
spec (R700) is an architectural event with a next state (R710), so this type has no constructor. -/
inductive Fault
deriving DecidableEq, Repr

/-- The reasons for which the model gives no meaning. -/
inductive Refusal
  /-- An instruction without a meaning, raised by an arm of `exec` only. No arm raises it: every row is modelled.
  Safe. -/
  | notModelled (mnemonic : String)
  /-- The host broke the handshake of R322 at signal level, which R823 puts outside the spec (I14: refuse). Raised
  by the signal-level layer (`clockEdge`) only, never by `exec` or `step`. Safe: no claim covers such a run. -/
  | handshakeViolation
deriving DecidableEq, Repr

/-- Everything the spec gives the block, and the host's side of the port. -/
structure State where
  /-- `x0` to `x15` (R101). -/
  regs      : Vector U256 Config.numRegs
  /-- STATUS (R120). -/
  status    : Status
  /-- The division engine's hidden working registers (R131). -/
  engine    : DivEngine
  /-- The transaction that the port has taken and not yet answered (R321); `none` when the port is empty (R140).
  Run state SERVICING is `some` (R132). -/
  inService : Option Transaction
  /-- The host's transactions and resets still to come, in port order (R230), oldest first. -/
  inbox     : List HostEvent
  /-- The responses sent since reset, oldest first (R312, R325). -/
  responses : List Response
  /-- The model's own: how many free values have been used (notes/assumptions/1.md). -/
  freeCount : Nat
deriving DecidableEq, Repr

/-- The run state of R132. -/
inductive RunState
  | ready
  | servicing
  | halted
deriving DecidableEq, Repr

/-- STATUS after reset: `0x00000000` (R140). -/
def Status.reset : Status :=
  { halted := false, lt := false, eq := false, gt := false, bit := false, fault := none }

/-- The engine's registers after reset: R140 leaves them unspecified; 0 is the model's choice, marked DESIGN CHOICE
(notes/assumptions/2.md). -/
def engineReset : DivEngine := { dvnd := 0, dvsr := 0, remr := 0, quor := 0, cnt := 0 }

/-- The state after reset (R140), with nothing yet sent by the host. -/
def State.reset : State :=
  { regs      := Vector.replicate Config.numRegs 0
    status    := Status.reset
    engine    := engineReset
    inService := none
    inbox     := []
    responses := []
    freeCount := 0 }

end Sys2Proof.Machine
end

