-- ==== Sys2Proof/Machine/Operands.lean ====
section
/-! DEFINITION. Operand forms: the two limbs of a value (spec/00_scope.md R8, R9), the named constants (R10), and
the byte packing of a transfer in both directions (spec/20_memory.md R210 to R217). -/

namespace Sys2Proof.Machine

/-- `hi(v) = v[255:128]` (R9). -/
def hi (v : U256) : Limb := v.extractLsb' 128 128

/-- `lo(v) = v[127:0]` (R9). -/
def lo (v : U256) : Limb := v.extractLsb' 0 128

/-- `{h, l}`: the value whose high limb is `h` and whose low limb is `l` (R9). -/
def limbs (h l : Limb) : U256 := h ++ l

/-- `{h, l}` where the rule computes the limbs as natural numbers below `2^128`. -/
def limbsOfNat (h l : Nat) : U256 := limbs (BitVec.ofNat 128 h) (BitVec.ofNat 128 l)

/-- `MAX128 = 2^128 − 1` (R10). -/
def max128 : Nat := 2 ^ 128 - 1

/-- `MAX = 2^256 − 1` (R10). -/
def maxValue : U256 := BitVec.allOnes 256

/-! ### Bytes (R211 to R217). A transfer's bytes `B[0]`, `B[1]`, … are a list. -/

/-- The number of a byte list whose first byte is the most significant. -/
def numberBE (bytes : List Byte) : Nat := bytes.foldl (fun n b => n * 256 + b.toNat) 0

/-- The number of a byte list whose first byte is the least significant. -/
def numberLE (bytes : List Byte) : Nat := bytes.foldr (fun b n => b.toNat + 256 * n) 0

/-- `unpackBE` (R211): bytes 0–15 pack into the high limb and bytes 16–31 into the low limb, most significant first. -/
def unpackBE (bytes : List Byte) : U256 :=
  limbsOfNat (numberBE (bytes.take 16)) (numberBE ((bytes.drop 16).take 16))

/-- `unpackLE` (R212): bytes 0–15 pack into the low limb and bytes 16–31 into the high limb, least significant
first. Bytes beyond the provided length count as zero (R213). -/
def unpackLE (bytes : List Byte) : U256 :=
  limbsOfNat (numberLE ((bytes.drop 16).take 16)) (numberLE (bytes.take 16))

/-- `packBE(v)[k] = (val(v) >> 8(31 − k)) AND 0xFF` (R214). -/
def packBE (v : U256) : List Byte :=
  (List.range 32).map fun k => BitVec.ofNat 8 ((v.toNat >>> (8 * (31 - k))) &&& 0xFF)

/-- `packLE(v)[k] = (val(v) >> 8k) AND 0xFF` (R214). -/
def packLE (v : U256) : List Byte :=
  (List.range 32).map fun k => BitVec.ofNat 8 ((v.toNat >>> (8 * k)) &&& 0xFF)

/-- The packing that a transfer's direction chooses (R210, R400). -/
def unpack : Direction → List Byte → U256
  | .big,    bytes => unpackBE bytes
  | .little, bytes => unpackLE bytes

/-- The packing that a transfer's direction chooses (R210, R410). -/
def pack : Direction → U256 → List Byte
  | .big,    v => packBE v
  | .little, v => packLE v

/-- The bytes on the 256-bit data field: `B[k] = data[8k+7 : 8k]` (R217). -/
def bytesOfLanes (data : BitVec 256) : List Byte :=
  (List.range 32).map fun k => data.extractLsb' (8 * k) 8

/-- The data field that carries the bytes `B[0..31]`: byte `B[k]` in `data[8k+7 : 8k]` (R217). -/
def lanesOfBytes (bytes : List Byte) : BitVec 256 := BitVec.ofNat 256 (numberLE bytes)

end Sys2Proof.Machine
end

