-- ==== Sys2Proof/Machine/Flags.lean ====
section
/-! DEFINITION. STATUS: its codes, the word that RDSTATUS reads, and the writing of its four result flags
(spec/10_state.md R110, R120, R121). -/

namespace Sys2Proof.Machine

/-- The code of a fault cause (R121, R700). -/
def FaultCause.code : FaultCause → BitVec 4
  | .addOverflow    => 1
  | .subOverflow    => 2
  | .mulOverflow    => 3
  | .divByZero      => 4
  | .badIndex       => 5
  | .illegalCommand => 6

/-- The FAULT field: the code of the fault, 0 if there is none (R120, R121). -/
def faultField : Option FaultCause → BitVec 4
  | none       => 0
  | some cause => cause.code

/-- A response code on the port (R312). -/
def ResponseCode.code : ResponseCode → BitVec 2
  | .ok      => 0
  | .faulted => 1
  | .halted  => 2

/-- One bit of STATUS at its place. -/
def statusBit (b : Bool) (place : Nat) : BitVec 32 := (BitVec.ofBool b).setWidth 32 <<< place

/-- STATUS as one 32-bit word (R120): HALTED [0], LT [1], EQ [2], GT [3], BIT [4], FAULT [11:8]; the reserved bits
[7:5] and [31:12] read 0. -/
def Status.toWord (st : Status) : BitVec 32 :=
  statusBit st.halted 0 ||| statusBit st.lt 1 ||| statusBit st.eq 2 ||| statusBit st.gt 3 |||
    statusBit st.bit 4 ||| (faultField st.fault).setWidth 32 <<< 8

/-- The four result flags (R110). -/
inductive Flag
  | lt
  | eq
  | gt
  | bit
deriving DecidableEq, Repr

/-- `STATUS.F <- v` for a result flag (R11, R110). -/
def Status.setFlag (st : Status) (f : Flag) (v : Bool) : Status :=
  match f with
  | .lt  => { st with lt := v }
  | .eq  => { st with eq := v }
  | .gt  => { st with gt := v }
  | .bit => { st with bit := v }

/-- The value of a result flag. -/
def Status.flag (st : Status) : Flag → Bool
  | .lt  => st.lt
  | .eq  => st.eq
  | .gt  => st.gt
  | .bit => st.bit

/-- The flag writes of CMP (R670): one for each outcome of the comparison. -/
def comparisonFlags (c : Ordering) : List (Flag × Bool) :=
  [(.lt, decide (c = .lt)), (.eq, decide (c = .eq)), (.gt, decide (c = .gt))]

end Sys2Proof.Machine
end

