-- ==== Sys2Proof/Machine/Ops.lean ====
section
/-! DEFINITION. The named operations that every meaning is written over: register access, the port (spec/30_encoding.md
R320), raising a fault (spec/60_exceptions.md R710), the refusal while HALTED (R712), reset, which is the only way
back from a fault (R713, R800), and the template that every command follows (R336). -/

namespace Sys2Proof.Machine

/-! ### Registers (R11, R101): none is hardwired, none is an alias. -/

/-- `x[i]`. -/
def State.reg (s : State) (i : RegIdx) : U256 := s.regs[i]

/-- `x[i] <- v`. -/
def State.setReg (s : State) (i : RegIdx) (v : U256) : State := { s with regs := s.regs.set i v }

/-- `STATUS.F <- v` for a result flag. -/
def State.setFlag (s : State) (f : Flag) (v : Bool) : State := { s with status := s.status.setFlag f v }

/-- The run state (R132), which is a view of the port and of STATUS.HALTED. R132 does not say in which state a halted
core is while it services a STORE or RDSTATUS: SERVICING here, a DESIGN CHOICE (notes/assumptions/16.md). -/
def State.runState (s : State) : RunState :=
  if s.inService.isSome then .servicing else if s.status.halted then .halted else .ready

/-! ### The port (R320, R321) -/

/-- `PortIn()`: the port takes the transaction `t`; `rest` is what the host still sends. -/
def portIn (t : Transaction) (rest : List HostEvent) (s : State) : State :=
  { s with inbox := rest, inService := some t }

/-- `PortOut(code, rdata)`: the response to the transaction in service, which is then over. -/
def portOut (code : ResponseCode) (rdata : BitVec 256) (s : State) : State :=
  { s with inService := none, responses := s.responses ++ [{ code := code, rdata := rdata }] }

/-- The transaction to service now, and the state in which it is in service: the one the port already holds (R321),
else the host's next one (R320). `none` when there is nothing to do. -/
def nextTransaction (s : State) : Option (Transaction × State) :=
  match s.inService, s.inbox with
  | some t, _                  => some (t, s)
  | none,   .request t :: rest => some (t, portIn t rest s)
  | none,   .reset :: _        => none
  | none,   []                 => none

/-! ### Faults, HALTED and reset -/

/-- `raise Fault(code)` (R710): STATUS.FAULT and STATUS.HALTED are written, the response is FAULTED, and nothing
else changes, the hidden engine included (DEDUCED, notes/assumptions/3.md). Nothing is saved besides the code; there is
no vector, no handler and no mode. -/
def raiseFault (cause : FaultCause) (s : State) : State :=
  portOut .faulted 0 { s with status := { s.status with fault := some cause, halted := true } }

/-- The refusal of a LOAD or EXEC while HALTED (R712): response HALTED, and nothing changes. -/
def refuseHalted (s : State) : State := portOut .halted 0 s

/-- Reset (R800, R801), the only way out of HALTED (R713): every piece of the block's state takes its reset value, a
transaction in service is abandoned without a response, and a new run begins (R325). `rest` is what the host does
after it. The free values go on (notes/assumptions/1.md). -/
def hostReset (rest : List HostEvent) (s : State) : State :=
  { State.reset with inbox := rest, freeCount := s.freeCount }

/-! ### The command template (R336) -/

/-- What a command writes (R336): register writes, then flag writes; and whether it ran the division engine, whose
hidden registers hold any value afterwards (I7). -/
structure Writes where
  regs       : List (RegIdx × U256)
  flags      : List (Flag × Bool)
  usesEngine : Bool := false
deriving DecidableEq, Repr

/-- What the `compute` part of a command answers: its writes, or the fault it raises (R336). -/
abbrev Computed := Except FaultCause Writes

/-- One register written and no flag. -/
def writesReg (rd : RegIdx) (v : U256) : Computed := .ok { regs := [(rd, v)], flags := [] }

/-- No register written, and these flags. -/
def writesFlags (fs : List (Flag × Bool)) : Computed := .ok { regs := [], flags := fs }

/-- The division engine after a division: its hidden registers hold a free value (I7), a fresh one each time. -/
def releaseEngine (s : State) : State :=
  { s with engine := Config.engineAfter s.freeCount, freeCount := s.freeCount + 1 }

/-- "perform writes: each register write x[i] <- v, then each flag write STATUS.F <- v" (R336). -/
def performWrites (w : Writes) (s : State) : State :=
  let s1 := w.regs.foldl (fun s p => s.setReg p.1 p.2) s
  let s2 := w.flags.foldl (fun s p => s.setFlag p.1 p.2) s1
  if w.usesEngine then releaseEngine s2 else s2

/-- The template of R336 from the HALTED test on, for a word that decodes to a legal command: both operands are read
before any write; a fault writes nothing of the command. -/
def serviceCommand (rs1 rs2 : RegIdx) (compute : U256 → U256 → Computed) (s : State) :
    Host.Outcome State Fault Refusal :=
  if s.status.halted then .next (refuseHalted s)
  else match compute (s.reg rs1) (s.reg rs2) with
    | .error cause => .next (raiseFault cause s)
    | .ok writes   => .next (portOut .ok 0 (performWrites writes s))

/-- The template of R336 for a word that decodes to ILLEGAL: no register is read or written, and no flag (R334). -/
def serviceIllegal (s : State) : Host.Outcome State Fault Refusal :=
  if s.status.halted then .next (refuseHalted s) else .next (raiseFault .illegalCommand s)

end Sys2Proof.Machine
end

