-- ==== Sys2Proof/Machine/Compare.lean ====
section
/-! DEFINITION. The comparison tree and bitwise OR (spec/45_or_cmp.md): `cmp3` is the core's one comparator (R660),
which CMP, SUB and the division engine use; the commands OR (R650) and CMP (R670). -/

namespace Sys2Proof.Machine

/-- `cmp3` (R660): lexicographic on the limbs, the high limb first. -/
def cmp3 (a b : U256) : Ordering :=
  if hi a ≠ hi b then (if hi a < hi b then .lt else .gt)
  else if lo a ≠ lo b then (if lo a < lo b then .lt else .gt)
  else .eq

/-- `less(a, b)` (R660). -/
def less (a b : U256) : Bool := decide (cmp3 a b = .lt)

/-- `equal(a, b)` (R660). -/
def equal (a b : U256) : Bool := decide (cmp3 a b = .eq)

/-- `compute_OR` (R650): limb-wise, no bit crosses the limb boundary. -/
def computeOr (rd : RegIdx) (a b : U256) : Computed :=
  writesReg rd (limbs (hi a ||| hi b) (lo a ||| lo b))

/-- `compute_CMP` (R670). -/
def computeCmp (a b : U256) : Computed := writesFlags (comparisonFlags (cmp3 a b))

/-- OR (R650, R336). -/
def execOr (rd rs1 rs2 : RegIdx) (s : State) : Host.Outcome State Fault Refusal :=
  serviceCommand rs1 rs2 (computeOr rd) s

/-- CMP (R670, R336). -/
def execCmp (rs1 rs2 : RegIdx) (s : State) : Host.Outcome State Fault Refusal :=
  serviceCommand rs1 rs2 computeCmp s

/-- `MV rd, rs` is the command `OR rd, rs, rs` (R341). -/
def execMv (rd rs : RegIdx) (s : State) : Host.Outcome State Fault Refusal :=
  serviceCommand rs rs (computeOr rd) s

end Sys2Proof.Machine
end

