-- ==== Sys2Proof/Machine/AddSub.lean ====
section
/-! DEFINITION. The adder and the subtracter (spec/41_add_sub.md): ADD with its carry chain (R450), SUB with its
borrow chain (R470), each an exact result or a fault. -/

namespace Sys2Proof.Machine

/-- `compute_ADD` (R450). -/
def computeAdd (rd : RegIdx) (a b : U256) : Computed :=
  let sLo := (lo a).toNat + (lo b).toNat
  let c   := sLo >>> 128
  let sHi := (hi a).toNat + (hi b).toNat + c
  if 2 ^ 128 ≤ sHi then .error .addOverflow
  else writesReg rd (limbsOfNat sHi (sLo &&& max128))

/-- The low limb of a difference and the borrow out of it (R470). -/
def subLow (a b : U256) : Nat × Nat :=
  if (lo b).toNat ≤ (lo a).toNat then ((lo a).toNat - (lo b).toNat, 0)
  else ((lo a).toNat + 2 ^ 128 - (lo b).toNat, 1)

/-- `compute_SUB` (R470), with its precondition and its defensive check. -/
def computeSub (rd : RegIdx) (a b : U256) : Computed :=
  if less a b then .error .subOverflow
  else
    let (dLo, w) := subLow a b
    if (hi a).toNat < (hi b).toNat + w then .error .subOverflow
    else writesReg rd (limbsOfNat ((hi a).toNat - (hi b).toNat - w) dLo)

/-- ADD (R450, R336). -/
def execAdd (rd rs1 rs2 : RegIdx) (s : State) : Host.Outcome State Fault Refusal :=
  serviceCommand rs1 rs2 (computeAdd rd) s

/-- SUB (R470, R336). -/
def execSub (rd rs1 rs2 : RegIdx) (s : State) : Host.Outcome State Fault Refusal :=
  serviceCommand rs1 rs2 (computeSub rd) s

/-- `CLR rd` is the command `SUB rd, rd, rd` (R341). -/
def execClr (rd : RegIdx) (s : State) : Host.Outcome State Fault Refusal :=
  serviceCommand rd rd (computeSub rd) s

end Sys2Proof.Machine
end

