-- ==== Sys2Proof/Machine/BitAccess.lean ====
section
/-! DEFINITION. Single-bit access (spec/40_representation.md): BITAT (R430) and SETBIT (R440). -/

namespace Sys2Proof.Machine

/-- `compute_BITAT` (R430). -/
def computeBitat (a b : U256) : Computed :=
  let idx := b.toNat
  if Config.bitIndexLimit ≤ idx then .error .badIndex
  else if idx < 128 then writesFlags [(.bit, (lo a).getLsbD idx)]
  else writesFlags [(.bit, (hi a).getLsbD (idx - 128))]

/-- `compute_SETBIT` (R440). -/
def computeSetbit (rd : RegIdx) (a b : U256) : Computed :=
  let idx := b.toNat
  if Config.bitIndexLimit ≤ idx then .error .badIndex
  else if idx < 128 then writesReg rd (limbs (hi a) (lo a ||| (1#128 <<< idx)))
  else writesReg rd (limbs (hi a ||| (1#128 <<< (idx - 128))) (lo a))

/-- BITAT (R430, R336). -/
def execBitat (rs1 rs2 : RegIdx) (s : State) : Host.Outcome State Fault Refusal :=
  serviceCommand rs1 rs2 computeBitat s

/-- SETBIT (R440, R336). -/
def execSetbit (rd rs1 rs2 : RegIdx) (s : State) : Host.Outcome State Fault Refusal :=
  serviceCommand rs1 rs2 (computeSetbit rd) s

end Sys2Proof.Machine
end

