-- ==== Sys2Proof/Machine/Div.lean ====
section
/-! DEFINITION. The restoring long-division engine (spec/43_div.md R560) and the commands DIV (R570) and DIVREM
(R580), which both run it. -/

namespace Sys2Proof.Machine

/-- The engine when its loop starts: the operands copied, remainder and quotient 0, and CNT at the first index,
255 (R131, R560). -/
def engineStart (n d : U256) : DivEngine :=
  { dvnd := n, dvsr := d, remr := 0, quor := 0, cnt := BitVec.ofNat 9 (Config.divIterations - 1) }

/-- One iteration at the index in CNT (R560): shift the remainder left inside 256 bits, OR in the dividend's bit,
and subtract the divisor where it fits. -/
def engineIterate (e : DivEngine) : DivEngine :=
  let shifted := (e.remr <<< 1) ||| ((e.dvnd >>> e.cnt.toNat) &&& 1)
  if less shifted e.dvsr then { e with remr := shifted }
  else { e with remr := shifted - e.dvsr, quor := e.quor ||| (1 <<< e.cnt.toNat) }

/-- The counted loop (R560): CNT runs from `k − 1` down to 0. -/
def engineLoop : Nat → DivEngine → DivEngine
  | 0,     e => e
  | k + 1, e => engineLoop k (engineIterate { e with cnt := BitVec.ofNat 9 k })

/-- `divEngine` (R560): the zero test, then the fast path, then the loop of exactly 256 iterations. -/
def divEngine (n d : U256) : Except FaultCause (U256 × U256) :=
  if d = 0 then .error .divByZero
  else if less n d then .ok (0, n)
  else
    let e := engineLoop Config.divIterations (engineStart n d)
    .ok (e.quor, e.remr)

/-- `compute_DIV` (R570): the quotient only. -/
def computeDiv (rd : RegIdx) (a b : U256) : Computed :=
  match divEngine a b with
  | .error cause => .error cause
  | .ok (q, _)   => .ok { regs := [(rd, q)], flags := [], usesEngine := true }

/-- `compute_DIVREM` (R580): quotient and remainder. -/
def computeDivrem (rd rd2 : RegIdx) (a b : U256) : Computed :=
  match divEngine a b with
  | .error cause => .error cause
  | .ok (q, r)   => .ok { regs := [(rd, q), (rd2, r)], flags := [], usesEngine := true }

/-- DIV (R570, R336). -/
def execDiv (rd rs1 rs2 : RegIdx) (s : State) : Host.Outcome State Fault Refusal :=
  serviceCommand rs1 rs2 (computeDiv rd) s

/-- DIVREM (R580, R336). With `rd = rd2` the word is illegal, and faults before any operand is read. -/
def execDivrem (rd rd2 rs1 rs2 : RegIdx) (s : State) : Host.Outcome State Fault Refusal :=
  if rd = rd2 then serviceIllegal s else serviceCommand rs1 rs2 (computeDivrem rd rd2) s

end Sys2Proof.Machine
end

