-- ==== Sys2Proof/Machine/Mul.lean ====
section
/-! DEFINITION. The multiplier (spec/42_mul.md): the exact product or a fault (R500), and the reference datapath of
four partial products (R501, R502), which the meaning of MUL does not use. -/

namespace Sys2Proof.Machine

/-- `compute_MUL` (R500). -/
def computeMul (rd : RegIdx) (a b : U256) : Computed :=
  let p := a.toNat * b.toNat
  if 2 ^ 256 ≤ p then .error .mulOverflow
  else writesReg rd (limbsOfNat (p >>> 128) (p &&& max128))

/-- MUL (R500, R336). -/
def execMul (rd rs1 rs2 : RegIdx) (s : State) : Host.Outcome State Fault Refusal :=
  serviceCommand rs1 rs2 (computeMul rd) s

/-! ### The reference datapath -/

/-- The four partial products of R501, each a number below `2^256`. -/
structure PartialProducts where
  ll : Nat
  lh : Nat
  hl : Nat
  hh : Nat
deriving DecidableEq, Repr

/-- R501: the limbs multiplied pairwise. -/
def partialProducts (a b : U256) : PartialProducts :=
  { ll := (lo a).toNat * (lo b).toNat
    lh := (lo a).toNat * (hi b).toNat
    hl := (hi a).toNat * (lo b).toNat
    hh := (hi a).toNat * (hi b).toNat }

/-- What the datapath of R502 puts out. -/
structure MulCombResult where
  lo       : Nat
  hi       : Nat
  overflow : Bool
deriving DecidableEq, Repr

/-- `mulComb` (R502): the partial products combined at the 128-bit limb boundary. -/
def mulComb (a b : U256) : MulCombResult :=
  let p  := partialProducts a b
  let t  := p.ll + ((p.lh &&& max128) <<< 128) + ((p.hl &&& max128) <<< 128)
  let cA := t >>> 128
  let u  := p.hh + (p.lh >>> 128) + (p.hl >>> 128)
  let h  := (u <<< 128) + cA
  { lo := t &&& max128, hi := h, overflow := decide (2 ^ 128 ≤ h) }

end Sys2Proof.Machine
end

