-- ==== Sys2Proof/Machine/Shift.lean ====
section
/-! DEFINITION. The barrel shifter (spec/44_shift.md): SHL (R610) and SHR (R620), limb by limb. A limb is never
shifted by its own width (R601). -/

namespace Sys2Proof.Machine

/-- The result of SHL (R610). A shift on a limb keeps its low 128 bits. -/
def shiftLeft (a b : U256) : U256 :=
  let s := b.toNat
  if Config.shiftZeroLimit ≤ s then limbs 0 0
  else if s = 0 then a
  else if 128 ≤ s then limbs (lo a <<< (s - 128)) 0
  else limbs ((hi a <<< s) ||| (lo a >>> (128 - s))) (lo a <<< s)

/-- The result of SHR (R620), SHL's mirror image. -/
def shiftRight (a b : U256) : U256 :=
  let s := b.toNat
  if Config.shiftZeroLimit ≤ s then limbs 0 0
  else if s = 0 then a
  else if 128 ≤ s then limbs 0 (hi a >>> (s - 128))
  else limbs (hi a >>> s) ((lo a >>> s) ||| (hi a <<< (128 - s)))

/-- `compute_SHL` (R610). -/
def computeShl (rd : RegIdx) (a b : U256) : Computed := writesReg rd (shiftLeft a b)

/-- `compute_SHR` (R620). -/
def computeShr (rd : RegIdx) (a b : U256) : Computed := writesReg rd (shiftRight a b)

/-- SHL (R610, R336). -/
def execShl (rd rs1 rs2 : RegIdx) (s : State) : Host.Outcome State Fault Refusal :=
  serviceCommand rs1 rs2 (computeShl rd) s

/-- SHR (R620, R336). -/
def execShr (rd rs1 rs2 : RegIdx) (s : State) : Host.Outcome State Fault Refusal :=
  serviceCommand rs1 rs2 (computeShr rd) s

end Sys2Proof.Machine
end

