-- ==== Sys2Proof/Machine/Transfer.lean ====
section
/-! DEFINITION. The host transactions that move data (spec/40_representation.md): LOAD (R400), STORE (R410) and
RDSTATUS (R420). -/

namespace Sys2Proof.Machine

/-- LOAD (R400): one register from the 32 bytes of `data`; refused while HALTED. -/
def execLoad (r : RegIdx) (e : Direction) (data : BitVec 256) (s : State) : Host.Outcome State Fault Refusal :=
  if s.status.halted then .next (refuseHalted s)
  else .next (portOut .ok 0 (s.setReg r (unpack e (bytesOfLanes data))))

/-- STORE (R410): one register as 32 bytes; serviced while HALTED too. -/
def execStore (r : RegIdx) (e : Direction) (s : State) : Host.Outcome State Fault Refusal :=
  .next (portOut .ok (lanesOfBytes (pack e (s.reg r))) s)

/-- RDSTATUS (R420): `zext_256(STATUS)`; serviced while HALTED too, with no side effect (R123). -/
def execRdstatus (s : State) : Host.Outcome State Fault Refusal :=
  .next (portOut .ok (s.status.toWord.setWidth 256) s)

end Sys2Proof.Machine
end

