-- ==== Sys2Proof/Machine/Exec.lean ====
section
/-! DEFINITION. EXEC (spec/30_encoding.md R336): the command word is decoded and its command runs, or it is illegal
and raises ILLEGAL_COMMAND (R334). -/

namespace Sys2Proof.Machine

/-- An illegal command word (R334, R336): ILLEGAL_COMMAND, or the refusal while HALTED. -/
def execIllegal (_w : CommandWord) (s : State) : Host.Outcome State Fault Refusal := serviceIllegal s

/-- EXEC (R336): the command that the word `w` decodes to. The last four alternatives are no commands; no word
decodes to them, and they count as illegal (DEDUCED, notes/assumptions/10.md). -/
def execExec (w : CommandWord) (s : State) : Host.Outcome State Fault Refusal :=
  match decodeCommand w with
  | .add rd rs1 rs2        => execAdd rd rs1 rs2 s
  | .sub rd rs1 rs2        => execSub rd rs1 rs2 s
  | .mul rd rs1 rs2        => execMul rd rs1 rs2 s
  | .div rd rs1 rs2        => execDiv rd rs1 rs2 s
  | .divrem rd rd2 rs1 rs2 => execDivrem rd rd2 rs1 rs2 s
  | .shl rd rs1 rs2        => execShl rd rs1 rs2 s
  | .shr rd rs1 rs2        => execShr rd rs1 rs2 s
  | .or rd rs1 rs2         => execOr rd rs1 rs2 s
  | .cmp rs1 rs2           => execCmp rs1 rs2 s
  | .bitat rs1 rs2         => execBitat rs1 rs2 s
  | .setbit rd rs1 rs2     => execSetbit rd rs1 rs2 s
  | .mv rd rs              => execMv rd rs s
  | .clr rd                => execClr rd s
  | .illegal v             => execIllegal v s
  | .load _ _ _            => execIllegal w s
  | .store _ _             => execIllegal w s
  | .exec _                => execIllegal w s
  | .rdstatus              => execIllegal w s

end Sys2Proof.Machine
end

