-- ==== Sys2Proof/Machine/Dispatch.lean ====
section
/-! DEFINITION. One meaning for each instruction. -/

namespace Sys2Proof.Machine

def exec (i : Instr) (s : State) : Host.Outcome State Fault Refusal :=
  match i with
  | .load r e data => Sys2Proof.Machine.execLoad r e data s
  | .store r e => Sys2Proof.Machine.execStore r e s
  | .exec cmd => Sys2Proof.Machine.execExec cmd s
  | .rdstatus => Sys2Proof.Machine.execRdstatus s
  | .add rd rs1 rs2 => Sys2Proof.Machine.execAdd rd rs1 rs2 s
  | .sub rd rs1 rs2 => Sys2Proof.Machine.execSub rd rs1 rs2 s
  | .mul rd rs1 rs2 => Sys2Proof.Machine.execMul rd rs1 rs2 s
  | .div rd rs1 rs2 => Sys2Proof.Machine.execDiv rd rs1 rs2 s
  | .divrem rd rd2 rs1 rs2 => Sys2Proof.Machine.execDivrem rd rd2 rs1 rs2 s
  | .shl rd rs1 rs2 => Sys2Proof.Machine.execShl rd rs1 rs2 s
  | .shr rd rs1 rs2 => Sys2Proof.Machine.execShr rd rs1 rs2 s
  | .or rd rs1 rs2 => Sys2Proof.Machine.execOr rd rs1 rs2 s
  | .cmp rs1 rs2 => Sys2Proof.Machine.execCmp rs1 rs2 s
  | .bitat rs1 rs2 => Sys2Proof.Machine.execBitat rs1 rs2 s
  | .setbit rd rs1 rs2 => Sys2Proof.Machine.execSetbit rd rs1 rs2 s
  | .illegal w => Sys2Proof.Machine.execIllegal w s
  | .mv rd rs => Sys2Proof.Machine.execMv rd rs s
  | .clr rd => Sys2Proof.Machine.execClr rd s

end Sys2Proof.Machine
end

