-- ==== Sys2Proof/Machine/Step.lean ====
section
/-! DEFINITION. One step of the block: one host event (spec/70_reset_and_hazards.md R801, R820). -/

namespace Sys2Proof.Machine

/-- One step. A reset that comes next takes effect at once, whatever is in service (R801; DEDUCED,
notes/assumptions/6.md). Otherwise the port takes
the next transaction and services it to its response, as one atomic step (R320, R820). With nothing to do the block
waits, and everything keeps its value (R734). -/
def step (s : State) : Host.Outcome State Fault Refusal :=
  match s.inbox with
  | .reset :: rest => .next (hostReset rest s)
  | [] | .request _ :: _ =>
    match nextTransaction s with
    | none => .next s
    | some (t, s') => exec (decodeTransaction t) s'

/-- `s` with the transaction of a table row offered next (R325: the host's transactions are the program), and no
transaction in service, so that the next step services exactly it (DEDUCED, notes/assumptions/4.md). -/
def State.withFetchWord (s : State) (nbits w : Nat) : State :=
  { s with inService := none, inbox := .request (tableTransaction nbits w) :: s.inbox }

end Sys2Proof.Machine
end

