-- ==== Sys2Proof/Machine/Assembler.lean ====
section
/-! DEFINITION. The text forms of spec/30_encoding.md: command syntax (R340), pseudo-instructions (R341) and host
transaction syntax (R342). A line is a list of characters. Blanks, the case of digits and the like are a DESIGN CHOICE
(notes/assumptions/14.md). -/

namespace Sys2Proof.Machine

/-- The pieces of a line between the characters `c`. -/
def splitOnChar (c : Char) : List Char → List (List Char)
  | []      => [[]]
  | d :: ds =>
    if d = c then [] :: splitOnChar c ds
    else match splitOnChar c ds with
      | []         => [[d]]
      | w :: ws    => (d :: w) :: ws

/-- A piece of a line without the blanks around it. -/
def trimBlanks (cs : List Char) : List Char :=
  ((cs.dropWhile (· = ' ')).reverse.dropWhile (· = ' ')).reverse

/-- The value of a digit in base 16; R10 writes hexadecimal digits in lower case, and upper case is read too. -/
def digitValue (c : Char) : Option Nat :=
  if '0' ≤ c ∧ c ≤ '9' then some (c.toNat - '0'.toNat)
  else if 'a' ≤ c ∧ c ≤ 'f' then some (c.toNat - 'a'.toNat + 10)
  else if 'A' ≤ c ∧ c ≤ 'F' then some (c.toNat - 'A'.toNat + 10)
  else none

/-- A number from its digits, most significant first; each must be below the base. -/
def digitsValue (base : Nat) (cs : List Char) : Option Nat :=
  cs.foldl (fun n c => match n, digitValue c with
    | some n, some d => if d < base then some (n * base + d) else none
    | _, _           => none) (some 0)

/-- A number in decimal, or in hexadecimal with the prefix `0x` (R10), that fits the 256-bit data field. -/
def readNumber (cs : List Char) : Option (BitVec 256) :=
  let n := match cs with
    | []              => none
    | ['0', 'x']      => none
    | '0' :: 'x' :: h => digitsValue 16 h
    | d               => digitsValue 10 d
  match n with
  | some n => if n < 2 ^ 256 then some (BitVec.ofNat 256 n) else none
  | none   => none

/-- The register names `x0` to `x15`, and no others (R101, R340). -/
def readReg (cs : List Char) : Option RegIdx :=
  let n := match cs with
    | ['x', d]      => digitsValue 10 [d]
    | ['x', '1', d] => (digitsValue 10 [d]).map (10 + ·)
    | _             => none
  match n with
  | some n => if h : n < 16 then some ⟨n, h⟩ else none
  | none   => none

/-- A command from its mnemonic, in capitals, and its registers in the operand order of R340 and R341. -/
def readCommand (mnemonic : String) (operands : List RegIdx) : Option Instr :=
  match operands with
  | [rd] => if mnemonic = "CLR" then some (.clr rd) else none
  | [a, b] =>
    if mnemonic = "CMP" then some (.cmp a b)
    else if mnemonic = "BITAT" then some (.bitat a b)
    else if mnemonic = "MV" then some (.mv a b)
    else none
  | [rd, rs1, rs2] =>
    if mnemonic = "ADD" then some (.add rd rs1 rs2)
    else if mnemonic = "SUB" then some (.sub rd rs1 rs2)
    else if mnemonic = "MUL" then some (.mul rd rs1 rs2)
    else if mnemonic = "DIV" then some (.div rd rs1 rs2)
    else if mnemonic = "SHL" then some (.shl rd rs1 rs2)
    else if mnemonic = "SHR" then some (.shr rd rs1 rs2)
    else if mnemonic = "OR" then some (.or rd rs1 rs2)
    else if mnemonic = "SETBIT" then some (.setbit rd rs1 rs2)
    else none
  | [rd, rd2, rs1, rs2] => if mnemonic = "DIVREM" then some (.divrem rd rd2 rs1 rs2) else none
  | _ => none

/-- A host transaction (R342). The 64 digits of LOAD.BE are the bytes `B[0]` to `B[31]` in order. -/
def readTransaction (mnemonic : String) (operands : List (List Char)) : Option Instr :=
  match operands with
  | [] => if mnemonic = "RDSTATUS" then some .rdstatus else none
  | [r] =>
    match readReg r with
    | none   => none
    | some r =>
      if mnemonic = "STORE.BE" then some (.store r .big)
      else if mnemonic = "STORE.LE" then some (.store r .little)
      else none
  | [r, n] =>
    match readReg r, readNumber n with
    | some r, some v =>
      if mnemonic = "LOAD.BE" ∧ n.length = 66 ∧ n.take 2 = ['0', 'x'] then
        some (.load r .big (lanesOfBytes (packBE v)))
      else if mnemonic = "LOAD.LE" then some (.load r .little v)
      else none
    | _, _ => none
  | _ => none

/-- The instruction that a line of text stands for. Mnemonics of commands may be written in small letters (R340). -/
def assemble (line : List Char) : Option Instr :=
  let body     := trimBlanks line
  let mnemonic := body.takeWhile (· ≠ ' ')
  let rest     := trimBlanks (body.dropWhile (· ≠ ' '))
  let operands := if rest = [] then [] else (splitOnChar ',' rest).map trimBlanks
  match readTransaction (String.ofList mnemonic) operands with
  | some i => some i
  | none   =>
    match operands.mapM readReg with
    | some regs => readCommand (String.ofList (mnemonic.map Char.toUpper)) regs
    | none      => none

end Sys2Proof.Machine
end

