-- ==== Sys2Proof/Machine/Clock.lean ====
section
/-! DEFINITION. The signal-level binding of the host port (spec/30_encoding.md R322): one rising edge of `clk` at a
time, with the reset input (spec/70_reset_and_hazards.md R800, R801), the handshake rule whose breach is outside the
spec (R823), and the latencies (R830). A layer around `exec`; nothing in the transaction-level machine depends on it. What
R322 leaves to the reader (the edge at which a transaction takes effect, an offer during reset) is DEDUCED or a DESIGN
CHOICE (notes/assumptions/12.md, 13.md). -/

namespace Sys2Proof.Machine

/-- The request inputs `req_kind`, `req_reg`, `req_e`, `req_data`, `req_cmd` (R322). -/
structure RequestPins where
  kind : BitVec 2
  reg  : BitVec 4
  e    : BitVec 1
  data : BitVec 256
  cmd  : CommandWord
deriving DecidableEq, Repr

/-- The inputs at a rising edge of `clk` (R322). -/
structure PinsIn where
  rst      : Bool
  reqValid : Bool
  req      : RequestPins
  rspReady : Bool
deriving DecidableEq, Repr

/-- The outputs (R322). `rsp_valid` = 1 is `some`, with the response that `rsp_code` and `rsp_data` carry; what they
carry while `rsp_valid` = 0 is not stated. -/
structure PinsOut where
  reqReady : Bool
  rsp      : Option Response
deriving DecidableEq, Repr

/-- Where the port stands between two edges. -/
inductive Phase
  /-- The last edge had `rst = 1` (R800). -/
  | inReset
  /-- Waiting for a request. -/
  | ready
  /-- Servicing the request taken; `left` further edges until its response is offered (R830). -/
  | servicing (left : Nat)
  /-- The response is offered: the last one in the core's record. -/
  | responding
deriving DecidableEq, Repr

/-- The block at signal level. -/
structure ClockState where
  core  : State
  phase : Phase
  /-- The request that the host offered at the last edge without its being taken: it must hold it (R322). -/
  offer : Option RequestPins
deriving DecidableEq, Repr

/-- The block after an edge with `rst = 1`. -/
def ClockState.reset : ClockState := { core := State.reset, phase := .inReset, offer := none }

/-- The transaction whose header fields are on the pins (R300, R322). -/
def RequestPins.transaction (q : RequestPins) : Transaction :=
  { header := (q.e ++ q.reg ++ q.kind : BitVec 7), data := q.data, cmd := q.cmd }

/-- The pins that carry a transaction. -/
def requestPins (t : Transaction) : RequestPins :=
  { kind := t.header.extractLsb' 0 2, reg := t.header.extractLsb' 2 4, e := t.header.extractLsb' 6 1
    data := t.data, cmd := t.cmd }

/-- The outputs while the reset input is `rst`: `req_ready` and `rsp_valid` are 0 while `rst = 1` (R800), and
`req_ready` is 0 from the taking of a request until its response is transferred (R322). -/
def pinsOut (rst : Bool) (c : ClockState) : PinsOut :=
  { reqReady := !rst && decide (c.phase = .ready)
    rsp      := if rst ∨ c.phase ≠ .responding then none else c.core.responses.getLast? }

/-- The latency of a division (R830): 1 for a zero divisor and on the fast path, 257 on the loop path. -/
def divLatency (s : State) (rs1 rs2 : RegIdx) : Nat :=
  if s.reg rs2 = 0 ∨ less (s.reg rs1) (s.reg rs2) then 1 else Config.divIterations + 1

/-- The latency of an instruction that is not refused (R830), in clock cycles. -/
def serviceLatency (i : Instr) (s : State) : Nat :=
  match i with
  | .load _ _ _           => 1
  | .store _ _            => 1
  | .exec _               => 1
  | .rdstatus             => 1
  | .add _ _ _            => 1
  | .sub _ _ _            => 1
  | .mul _ _ _            => Config.mulLatency
  | .div _ rs1 rs2        => divLatency s rs1 rs2
  | .divrem rd rd2 rs1 rs2 => if rd = rd2 then 1 else divLatency s rs1 rs2
  | .shl _ _ _            => 1
  | .shr _ _ _            => 1
  | .or _ _ _             => 1
  | .cmp _ _              => 1
  | .bitat _ _            => 1
  | .setbit _ _ _         => 1
  | .illegal _            => 1
  | .mv _ _               => 1
  | .clr _                => 1

/-- The latency of a transaction (R830): 1 for whatever is serviced or refused while HALTED, else its command's. -/
def latency (t : Transaction) (s : State) : Nat :=
  if s.status.halted then 1 else serviceLatency (decode t) s

/-- R823: the host must hold a request that it offered and that was not taken; `q` is what it offered. -/
def handshakeBroken (p : PinsIn) : Option RequestPins → Bool
  | none   => false
  | some q => !p.reqValid || decide (p.req ≠ q)

/-- What the host has on offer, untaken, after an edge at which `req_ready` was 0. -/
def offerOf (p : PinsIn) : Option RequestPins := if p.reqValid then some p.req else none

/-- The request in service takes effect, as one atomic step (R820), and its response is offered. -/
def complete (offer : Option RequestPins) (core : State) : Host.Outcome ClockState Fault Refusal :=
  match core.inService with
  | none   => .next { core := core, phase := .ready, offer := offer }
  | some t =>
    match exec (decodeTransaction t) core with
    | .next core' => .next { core := core', phase := .responding, offer := offer }
    | .fault f    => .fault f
    | .refused r  => .refused r

/-- One rising edge of `clk`. `rst = 1` resets whatever is going on (R800, R801). Otherwise a broken handshake is
refused (R823, I14), a request is transferred when `req_valid` and `req_ready` are both 1, and a response when
`rsp_valid` and `rsp_ready` are both 1 (R322). -/
def clockEdge (p : PinsIn) (c : ClockState) : Host.Outcome ClockState Fault Refusal :=
  if p.rst then .next { core := hostReset [] c.core, phase := .inReset, offer := offerOf p }
  else if handshakeBroken p c.offer then .refused .handshakeViolation
  else match c.phase with
    | .inReset => .next { c with phase := .ready, offer := offerOf p }
    | .ready =>
      if p.reqValid then
        let core := portIn p.req.transaction c.core.inbox c.core
        let cycles := latency p.req.transaction core
        if cycles ≤ 1 then complete none core
        else .next { core := core, phase := .servicing (cycles - 1), offer := none }
      else .next { c with offer := none }
    | .servicing left =>
      if left ≤ 1 then complete (offerOf p) c.core
      else .next { c with phase := .servicing (left - 1), offer := offerOf p }
    | .responding =>
      if p.rspReady then .next { c with phase := .ready, offer := offerOf p }
      else .next { c with offer := offerOf p }

/-- The edges of `ps`, one after another. -/
def clockRun : List PinsIn → ClockState → Host.Outcome ClockState Fault Refusal
  | [],      c => .next c
  | p :: ps, c =>
    match clockEdge p c with
    | .next c'   => clockRun ps c'
    | .fault f   => .fault f
    | .refused r => .refused r

end Sys2Proof.Machine
end

