-- ==== Sys2Proof/Machine/Program.lean ====
section
/-! DEFINITION. Programs, their runs and their observation (spec/30_encoding.md R325), and the port order when several
masters share the port (spec/20_memory.md R230, R231). -/

namespace Sys2Proof.Machine

/-- The launch of the program `ts` from the block's state in `s` (R325): its transactions are what the host sends, and
the run's record of responses starts empty. -/
def State.launch (s : State) (ts : List Transaction) : State :=
  { s with inService := none, inbox := ts.map .request, responses := [] }

/-- The run of a program (R325): one step for each transaction. It ends when the last response has been sent. -/
def runProgram (ts : List Transaction) (s : State) : Host.Outcome State Fault Refusal :=
  Host.Core.run Sys2Proof.core ts.length (s.launch ts)

/-- What a run shows (R325): its responses, and the final registers and STATUS. -/
structure Observation where
  responses : List Response
  regs      : Vector U256 Config.numRegs
  status    : Status
deriving DecidableEq, Repr

/-- The observation of a run that has ended in `s`. -/
def State.observe (s : State) : Observation :=
  { responses := s.responses, regs := s.regs, status := s.status }

/-- `Merged ms zs`: `zs` is one interleaving of the masters' transaction sequences `ms` that keeps each master's own
order (R231). The arbiter outside the block may pick any of them. -/
inductive Merged : List (List Transaction) → List Transaction → Prop
  | done (ms : List (List Transaction)) (h : ∀ m ∈ ms, m = []) : Merged ms []
  | take (before after : List (List Transaction)) (t : Transaction) (rest zs : List Transaction)
      (h : Merged (before ++ rest :: after) zs) : Merged (before ++ (t :: rest) :: after) (t :: zs)

/-- The runs of several masters on one port: those of every interleaving (R231). -/
def MastersRun (ms : List (List Transaction)) (s s' : State) : Prop :=
  ∃ zs, Merged ms zs ∧ runProgram zs s = .next s'

end Sys2Proof.Machine
end

