-- ==== Sys2Proof/Safety.lean ====
section
/-! DEFINITION. What the claims mean by a consistent state and by a run without a fault (spec/10_state.md R111, R122;
spec/60_exceptions.md R710). -/

namespace Sys2Proof.Machine

/-- R122: `HALTED = 1` exactly when `FAULT ≠ 0`. -/
abbrev Status.haltedIffFault (st : Status) : Prop := st.halted = st.fault.isSome

/-- Some CMP has completed: exactly one of LT, EQ, GT is 1 (R111). -/
def Status.compared (st : Status) : Bool :=
  (st.lt && !st.eq && !st.gt) || (!st.lt && st.eq && !st.gt) || (!st.lt && !st.eq && st.gt)

/-- No CMP has completed since reset: LT, EQ and GT are all 0 (R111). -/
def Status.uncompared (st : Status) : Bool := !st.lt && !st.eq && !st.gt

/-- The invariant of every run: R122, and R111's two cases. -/
abbrev State.Inv (s : State) : Prop :=
  s.status.haltedIffFault ∧ (s.status.compared = true ∨ s.status.uncompared = true)

/-- The port is empty between transactions (R140, R321). -/
abbrev State.idle (s : State) : Prop := s.inService = none

/-- A run without a fault: every response so far has code OK. -/
def State.allAnsweredOk (s : State) : Bool := s.responses.all fun r => decide (r.code = .ok)

end Sys2Proof.Machine
end

