-- ==== Sys2Proof/Certificates/Slice0/Obligations.lean ====
section
/-! DEFINITION. The statements about U256-CORE that are put up for proof. Each docstring names the rules of spec/ that
it formalises. -/

open Sys2Proof Sys2Proof.Machine

namespace Sys2Proof.Claims

/-! ### What R102 and R110 say of each instruction. An EXEC and a pseudo-instruction stand for their command. -/

def destinationsOf : Instr → List RegIdx
  | .load r _ _        => [r]
  | .store _ _         => []
  | .exec _            => []
  | .rdstatus          => []
  | .add rd _ _        => [rd]
  | .sub rd _ _        => [rd]
  | .mul rd _ _        => [rd]
  | .div rd _ _        => [rd]
  | .divrem rd rd2 _ _ => [rd, rd2]
  | .shl rd _ _        => [rd]
  | .shr rd _ _        => [rd]
  | .or rd _ _         => [rd]
  | .cmp _ _           => []
  | .bitat _ _         => []
  | .setbit rd _ _     => [rd]
  | .illegal _         => []
  | .mv rd _           => [rd]
  | .clr rd            => [rd]

/-- The registers an instruction may write (R102). -/
def destinations (i : Instr) : List RegIdx := destinationsOf i.expand

def sourcesOf : Instr → List RegIdx
  | .load _ _ _         => []
  | .store r _          => [r]
  | .exec _             => []
  | .rdstatus           => []
  | .add _ rs1 rs2      => [rs1, rs2]
  | .sub _ rs1 rs2      => [rs1, rs2]
  | .mul _ rs1 rs2      => [rs1, rs2]
  | .div _ rs1 rs2      => [rs1, rs2]
  | .divrem _ _ rs1 rs2 => [rs1, rs2]
  | .shl _ rs1 rs2      => [rs1, rs2]
  | .shr _ rs1 rs2      => [rs1, rs2]
  | .or _ rs1 rs2       => [rs1, rs2]
  | .cmp rs1 rs2        => [rs1, rs2]
  | .bitat rs1 rs2      => [rs1, rs2]
  | .setbit _ rs1 rs2   => [rs1, rs2]
  | .illegal _          => []
  | .mv _ rs            => [rs]
  | .clr rd             => [rd]

/-- The registers an instruction reads (R102). -/
def sources (i : Instr) : List RegIdx := sourcesOf i.expand

def flagsWrittenOf : Instr → List Flag
  | .load _ _ _     => []
  | .store _ _      => []
  | .exec _         => []
  | .rdstatus       => []
  | .add _ _ _      => []
  | .sub _ _ _      => []
  | .mul _ _ _      => []
  | .div _ _ _      => []
  | .divrem _ _ _ _ => []
  | .shl _ _ _      => []
  | .shr _ _ _      => []
  | .or _ _ _       => []
  | .cmp _ _        => [.lt, .eq, .gt]
  | .bitat _ _      => [.bit]
  | .setbit _ _ _   => []
  | .illegal _      => []
  | .mv _ _         => []
  | .clr _          => []

/-- The result flags an instruction may write (R110): CMP and BITAT only. -/
def flagsWritten (i : Instr) : List Flag := flagsWrittenOf i.expand

/-- Whether an instruction runs the division engine (R131): DIV and DIVREM only. -/
def usesEngine (i : Instr) : Bool :=
  match i.expand with
  | .div _ _ _      => true
  | .divrem _ _ _ _ => true
  | _               => false

/-- The two transactions that are serviced while HALTED too (R712). -/
def isRead : Instr → Bool
  | .store _ _ => true
  | .rdstatus  => true
  | _          => false

/-- The table of R700: which instruction raises which fault, and when. -/
def raisesOf (i : Instr) (s : State) (c : FaultCause) : Prop :=
  match i, c with
  | .add _ rs1 rs2,        .addOverflow    => 2 ^ 256 ≤ (s.reg rs1).toNat + (s.reg rs2).toNat
  | .sub _ rs1 rs2,        .subOverflow    => (s.reg rs1).toNat < (s.reg rs2).toNat
  | .mul _ rs1 rs2,        .mulOverflow    => 2 ^ 256 ≤ (s.reg rs1).toNat * (s.reg rs2).toNat
  | .div _ _ rs2,          .divByZero      => (s.reg rs2).toNat = 0
  | .divrem rd rd2 _ rs2,  .divByZero      => rd ≠ rd2 ∧ (s.reg rs2).toNat = 0
  | .divrem rd rd2 _ _,    .illegalCommand => rd = rd2
  | .bitat _ rs2,          .badIndex       => 256 ≤ (s.reg rs2).toNat
  | .setbit _ _ rs2,       .badIndex       => 256 ≤ (s.reg rs2).toNat
  | .illegal _,            .illegalCommand => True
  | _,                     _               => False

def raises (i : Instr) (s : State) (c : FaultCause) : Prop := raisesOf i.expand s c

/-- R334's four conditions on a command word, on its number. -/
def illegalNumber (n : Nat) : Prop :=
  let opcode := n % 2 ^ 8
  let rd     := n / 2 ^ 8 % 2 ^ 4
  let rd2    := n / 2 ^ 20 % 2 ^ 4
  (opcode = 0 ∨ 0x0C ≤ opcode) ∨ n / 2 ^ 24 ≠ 0 ∨
    ((opcode ≠ 0x05 ∧ rd2 ≠ 0) ∨ ((opcode = 0x09 ∨ opcode = 0x0A) ∧ rd ≠ 0)) ∨ (opcode = 0x05 ∧ rd = rd2)

/-- Two transactions of one kind that agree on every field the kind reads (R300): LOAD reads the header and `data`,
STORE the header, EXEC `cmd`, RDSTATUS nothing more. -/
def agreeOnReadFields (t u : Transaction) : Prop :=
  headerKind t.header = headerKind u.header ∧
    (headerKind t.header = 0 → t.header = u.header ∧ t.data = u.data) ∧
    (headerKind t.header = 1 → t.header = u.header) ∧
    (headerKind t.header = 2 → t.cmd = u.cmd)

/-- The rows of R830 whose latency is 1 cycle whatever the operands. -/
def takesOneCycle : Instr → Bool
  | .load _ _ _     => true
  | .store _ _      => true
  | .exec _         => false
  | .rdstatus       => true
  | .add _ _ _      => true
  | .sub _ _ _      => true
  | .mul _ _ _      => false
  | .div _ _ _      => false
  | .divrem _ _ _ _ => false
  | .shl _ _ _      => true
  | .shr _ _ _      => true
  | .or _ _ _       => true
  | .cmp _ _        => true
  | .bitat _ _      => true
  | .setbit _ _ _   => true
  | .illegal _      => true
  | .mv _ _         => false
  | .clr _          => false

/-- The division engine after `j` iterations of its loop: the next one has the index `255 − j` (R560). -/
def engineSteps (n d : U256) : Nat → DivEngine
  | 0     => engineStart n d
  | j + 1 => engineIterate { engineSteps n d j with cnt := BitVec.ofNat 9 (255 - j) }

/-- What a HALTED core answers (R712): a read is serviced, anything else is refused. -/
def haltedResponse (s : State) (t : Transaction) : Response :=
  match decodeTransaction t with
  | .store r e => { code := .ok, rdata := lanesOfBytes (pack e (s.reg r)) }
  | .rdstatus  => { code := .ok, rdata := s.status.toWord.setWidth 256 }
  | _          => { code := .halted, rdata := 0 }

end Sys2Proof.Claims

open Sys2Proof.Claims

/-! ### Reset, the port and the step -/

/-- R140: registers and STATUS are 0 after reset, the run state is READY and the port is empty. -/
def Obligations.ResetLeavesZeroRegistersAndStatus : Prop :=
  (∀ r, State.reset.reg r = 0) ∧ State.reset.status.toWord = 0 ∧ State.reset.runState = .ready ∧
    State.reset.inService = none

/-- R800, R713, and R801, which the spec derives: a reset that comes next gives the reset state whatever the block was
doing, HALTED included; a transaction in service is abandoned without a response. Three points are the model's choice:
the engine's reset value (log entry 2), that the record of responses starts anew (log entry 5), and that a reset next in
the inbox comes before the transaction in service (log entry 6). -/
def Obligations.ResetEventGivesTheResetState : Prop :=
  ∀ (s : State) (rest : List HostEvent), s.inbox = .reset :: rest →
    ∃ s', step s = .next s' ∧ (∀ r, s'.reg r = 0) ∧ s'.status = State.reset.status ∧ s'.engine = State.reset.engine ∧
      s'.inService = none ∧ s'.responses = [] ∧ s'.inbox = rest

/-- R320, R321: with the port empty, a step takes the host's next transaction and services it; with a transaction in
service, it services that one and takes no other. -/
def Obligations.StepServicesOneTransaction : Prop :=
  ∀ (s : State) (t : Transaction),
    (∀ rest, s.inService = none → s.inbox = .request t :: rest →
      step s = exec (decodeTransaction t) (portIn t rest s)) ∧
    (s.inService = some t → (∀ rest, s.inbox ≠ .reset :: rest) → step s = exec (decodeTransaction t) s)

/-- A step runs the decoded instruction: when the host's next transaction is the encoding of a well-formed instruction,
the step is `exec` of that instruction, the transaction being in service (R320, R335, R336, R341). -/
def Obligations.StepRunsTheEncodedInstruction : Prop :=
  ∀ (i : Instr) (s : State) (rest : List HostEvent), i.wellFormed = true → s.inService = none →
    s.inbox = .request (encode i) :: rest → step s = exec i (portIn (encode i) rest s)

/-- R734: with nothing in service and nothing to take, the core waits and keeps every value. -/
def Obligations.IdleCoreKeepsItsState : Prop :=
  ∀ s : State, s.inService = none → s.inbox = [] → step s = .next s

/-- R336: an EXEC is its command: it runs what its word decodes to, and it always completes. -/
def Obligations.ExecRunsTheCommandInItsWord : Prop :=
  ∀ (w : CommandWord) (s : State), ∃ s', exec (.exec w) s = .next s' ∧ exec (decodeCommand w) s = .next s'

/-- R312, R320: every instruction completes, in every state, with exactly one response; the port is then empty. FAULTED
is the answer exactly where a running core halts, HALTED exactly where a halted core refuses; only STORE and RDSTATUS
return data. -/
def Obligations.EveryInstructionIsAnsweredOnce : Prop :=
  ∀ (i : Instr) (s : State), ∃ s' r, exec i s = .next s' ∧ s'.responses = s.responses ++ [r] ∧ s'.inService = none ∧
    s'.inbox = s.inbox ∧ (r.code = .faulted ↔ s.status.halted = false ∧ s'.status.halted = true) ∧
    (r.code = .halted ↔ s.status.halted = true ∧ isRead i = false) ∧ (isRead i = false → r.rdata = 0)

/-! ### Encoding -/

/-- Decode and encode agree: every well-formed instruction comes back from its own transaction, with every operand;
EXEC comes back as the command in its word, and a pseudo-instruction as its expansion (R300, R330, R335, R340, R341). -/
def Obligations.DecodeOfEncodeIsTheInstruction : Prop :=
  (∀ i : Instr, i.wellFormed = true → decode (encode i) = i.expand) ∧
    (∀ i : Instr, i.isCommand = false → decodeTransaction (encode i) = i)

/-- The other direction: no bit of a command word is dropped by the decoder (R330, R335). -/
def Obligations.EncodeOfDecodedWordIsTheWord : Prop :=
  ∀ w : CommandWord, encodeCommand (decodeCommand w) = w

/-- R334: a word is illegal exactly by its four conditions, and an illegal word raises ILLEGAL_COMMAND, reading and
writing no register and no flag. -/
def Obligations.IllegalWordsRaiseIllegalCommand : Prop :=
  ∀ w : CommandWord,
    (decodeCommand w = .illegal w ↔ illegalNumber w.toNat) ∧ (illegalWord w = true ↔ illegalNumber w.toNat) ∧
    (illegalNumber w.toNat → ∀ s : State, s.status.halted = false →
      exec (.exec w) s = .next (raiseFault .illegalCommand s) ∧
      exec (.illegal w) s = .next (raiseFault .illegalCommand s))

/-- The match and mask of each opcode, which the last paragraph of R332 derives from its table. -/
def Obligations.CommandsMatchTheirMasks : Prop :=
  ∀ w : CommandWord,
    ((∃ rd rs1 rs2, decodeCommand w = .add rd rs1 rs2) ↔ w &&& 0xFFF000FF = 0x01) ∧
    ((∃ rd rs1 rs2, decodeCommand w = .sub rd rs1 rs2) ↔ w &&& 0xFFF000FF = 0x02) ∧
    ((∃ rd rs1 rs2, decodeCommand w = .mul rd rs1 rs2) ↔ w &&& 0xFFF000FF = 0x03) ∧
    ((∃ rd rs1 rs2, decodeCommand w = .div rd rs1 rs2) ↔ w &&& 0xFFF000FF = 0x04) ∧
    ((∃ rd rd2 rs1 rs2, decodeCommand w = .divrem rd rd2 rs1 rs2) ↔
      w &&& 0xFF0000FF = 0x05 ∧ w.extractLsb' 8 4 ≠ w.extractLsb' 20 4) ∧
    ((∃ rd rs1 rs2, decodeCommand w = .shl rd rs1 rs2) ↔ w &&& 0xFFF000FF = 0x06) ∧
    ((∃ rd rs1 rs2, decodeCommand w = .shr rd rs1 rs2) ↔ w &&& 0xFFF000FF = 0x07) ∧
    ((∃ rd rs1 rs2, decodeCommand w = .or rd rs1 rs2) ↔ w &&& 0xFFF000FF = 0x08) ∧
    ((∃ rs1 rs2, decodeCommand w = .cmp rs1 rs2) ↔ w &&& 0xFFF00FFF = 0x09) ∧
    ((∃ rs1 rs2, decodeCommand w = .bitat rs1 rs2) ↔ w &&& 0xFFF00FFF = 0x0A) ∧
    ((∃ rd rs1 rs2, decodeCommand w = .setbit rd rs1 rs2) ↔ w &&& 0xFFF000FF = 0x0B)

/-- R300, I12: a field that a transaction kind ignores has no effect, whatever its value. Two transactions that agree on
the fields their kind reads are the same instruction, and, with nothing in service, the step that services the one and
the step that services the other answer the same next state: nothing of the rest is kept. -/
def Obligations.IgnoredFieldsHaveNoEffect : Prop :=
  ∀ t u : Transaction, agreeOnReadFields t u → decodeTransaction t = decodeTransaction u ∧
    ∀ (s : State) (rest : List HostEvent), s.inService = none →
      ∃ s', step { s with inbox := .request t :: rest } = .next s' ∧
        step { s with inbox := .request u :: rest } = .next s'

/-- The words that R340 and spec/95_test_vectors.md write out decode to the instructions they stand for, and the
assembler syntax of R340 to R342 gives them. -/
def Obligations.WrittenOutWordsDecode : Prop :=
  decodeCommand 0x00021301 = .add 3 1 2 ∧ decodeCommand 0x00044402 = .sub 4 4 4 ∧
    decodeCommand 0x00521405 = .divrem 4 5 1 2 ∧ decodeCommand 0x00021306 = .shl 3 1 2 ∧
    decodeCommand 0x00055608 = .or 6 5 5 ∧ decodeCommand 0x00021009 = .cmp 1 2 ∧
    decodeCommand 0x0004200A = .bitat 2 4 ∧ decodeCommand 0x0002130B = .setbit 3 1 2 ∧
    decodeCommand 0x01021301 = .illegal 0x01021301 ∧
    decodeTransaction { header := 0b1111101, data := 0, cmd := 0 } = .store 15 .little ∧
    (assemble "ADD x3, x1, x2".toList).map encodeCommand = some 0x00021301 ∧
    (assemble "DIVREM x4, x5, x1, x2".toList).map encodeCommand = some 0x00521405 ∧
    (assemble "CMP x1, x2".toList).map encodeCommand = some 0x00021009

/-! ### Transfers and STATUS -/

/-- R400, with R211, R212 and R217: LOAD writes the value of its 32 bytes in the direction it names (Little: the data
field itself) and nothing else; while HALTED it is refused. -/
def Obligations.LoadWritesTheValueOfItsBytes : Prop :=
  ∀ (s : State) (r : RegIdx) (data : BitVec 256),
    (s.status.halted = false →
      (∃ v : U256, exec (.load r .big data) s = .next (portOut .ok 0 (s.setReg r v)) ∧
        v.toNat = ∑ k ∈ Finset.range 32, (data.extractLsb' (8 * k) 8).toNat * 256 ^ (31 - k)) ∧
      (exec (.load r .little data) s = .next (portOut .ok 0 (s.setReg r data)) ∧
        data.toNat = ∑ k ∈ Finset.range 32, (data.extractLsb' (8 * k) 8).toNat * 256 ^ k)) ∧
    (s.status.halted = true → ∀ e, exec (.load r e data) s = .next (refuseHalted s))

/-- R410, with R214 and R217: STORE returns the register's bytes in the direction it names, in every state, and writes
nothing. -/
def Obligations.StoreReturnsTheBytesOfTheRegister : Prop :=
  ∀ (s : State) (r : RegIdx),
    (∃ d : BitVec 256, exec (.store r .big) s = .next (portOut .ok d s) ∧ ∀ k < 32,
      (d.extractLsb' (8 * k) 8).toNat = (s.reg r).toNat / 2 ^ (8 * (31 - k)) % 256) ∧
    (∃ d : BitVec 256, exec (.store r .little) s = .next (portOut .ok d s) ∧ ∀ k < 32,
      (d.extractLsb' (8 * k) 8).toNat = (s.reg r).toNat / 2 ^ (8 * k) % 256)

/-- R215, which the spec derives from R211, R212 and R214: packing and unpacking are inverse, in both directions, over
32 bytes and over the data field. -/
def Obligations.PackingRoundTrips : Prop :=
  ∀ e : Direction, (∀ v : U256, unpack e (pack e v) = v) ∧
    (∀ bytes : List Byte, bytes.length = 32 → pack e (unpack e bytes) = bytes ∧
      bytesOfLanes (lanesOfBytes bytes) = bytes)

/-- R216, which the spec derives from R211, R212 and R214: a value loaded in one direction and stored in the other
comes back byte-reversed. -/
def Obligations.MixedDirectionsReverseTheBytes : Prop :=
  ∀ bytes : List Byte, bytes.length = 32 →
    packLE (unpackBE bytes) = bytes.reverse ∧ packBE (unpackLE bytes) = bytes.reverse

/-- R213, which the spec derives from R212: a short little-endian input has the value of its zero-filled 32-byte form.
-/
def Obligations.ShortLittleEndianInputIsZeroFilled : Prop :=
  ∀ bytes : List Byte, bytes.length ≤ 32 →
    unpackLE (bytes ++ List.replicate (32 - bytes.length) 0) = unpackLE bytes ∧
    (unpackLE bytes).toNat = ∑ k ∈ Finset.range bytes.length, (bytes.getD k 0).toNat * 256 ^ k

/-- R420, with R120, R121 and R123: RDSTATUS returns STATUS with every field at its place and the reserved bits 0, in
every state, and changes nothing. -/
def Obligations.RdstatusReturnsTheFieldsOfStatus : Prop :=
  ∀ s : State, ∃ w : BitVec 32, exec .rdstatus s = .next (portOut .ok (w.setWidth 256) s) ∧
    w.getLsbD 0 = s.status.halted ∧ w.getLsbD 1 = s.status.lt ∧ w.getLsbD 2 = s.status.eq ∧
    w.getLsbD 3 = s.status.gt ∧ w.getLsbD 4 = s.status.bit ∧ w.extractLsb' 5 3 = 0 ∧ w.extractLsb' 12 20 = 0 ∧
    (w.extractLsb' 8 4).toNat = match s.status.fault with
      | none                 => 0
      | some .addOverflow    => 1
      | some .subOverflow    => 2
      | some .mulOverflow    => 3
      | some .divByZero      => 4
      | some .badIndex       => 5
      | some .illegalCommand => 6

/-! ### Bit access -/

/-- R430: BITAT puts the indexed bit into STATUS.BIT, or faults with BAD_INDEX from index 256 on. -/
def Obligations.BitatReadsTheIndexedBit : Prop :=
  ∀ (s : State) (rs1 rs2 : RegIdx), s.status.halted = false →
    ((s.reg rs2).toNat < 256 → exec (.bitat rs1 rs2) s =
      .next (portOut .ok 0 (s.setFlag .bit ((s.reg rs1).toNat.testBit (s.reg rs2).toNat)))) ∧
    (256 ≤ (s.reg rs2).toNat → exec (.bitat rs1 rs2) s = .next (raiseFault .badIndex s))

/-- R440: SETBIT writes the value with the indexed bit set, or faults with BAD_INDEX from index 256 on. -/
def Obligations.SetbitSetsTheIndexedBit : Prop :=
  ∀ (s : State) (rd rs1 rs2 : RegIdx), s.status.halted = false →
    ((s.reg rs2).toNat < 256 → exec (.setbit rd rs1 rs2) s =
      .next (portOut .ok 0 (s.setReg rd (BitVec.ofNat 256 ((s.reg rs1).toNat ||| 2 ^ (s.reg rs2).toNat))))) ∧
    (256 ≤ (s.reg rs2).toNat → exec (.setbit rd rs1 rs2) s = .next (raiseFault .badIndex s))

/-- R441, which the spec derives from R430 and R440: SETBIT and then BITAT at the same index leave BIT = 1; from index
256 on both fault. -/
def Obligations.SetbitThenBitatReadsOne : Prop :=
  ∀ (s : State) (rd ri : RegIdx), s.status.halted = false → ri ≠ rd →
    ((s.reg ri).toNat < 256 → ∃ s1 s2, exec (.setbit rd rd ri) s = .next s1 ∧ exec (.bitat rd ri) s1 = .next s2 ∧
      s2.status.bit = true ∧ s2.status.halted = false) ∧
    (256 ≤ (s.reg ri).toNat → exec (.setbit rd rd ri) s = .next (raiseFault .badIndex s) ∧
      exec (.bitat rd ri) s = .next (raiseFault .badIndex s))

/-! ### Addition and subtraction -/

/-- R450: ADD writes the sum, or faults if it does not fit in 256 bits. -/
def Obligations.AddWritesTheTrueSum : Prop :=
  ∀ (s : State) (rd rs1 rs2 : RegIdx), s.status.halted = false →
    ((s.reg rs1).toNat + (s.reg rs2).toNat < 2 ^ 256 → exec (.add rd rs1 rs2) s =
      .next (portOut .ok 0 (s.setReg rd (BitVec.ofNat 256 ((s.reg rs1).toNat + (s.reg rs2).toNat))))) ∧
    (2 ^ 256 ≤ (s.reg rs1).toNat + (s.reg rs2).toNat → exec (.add rd rs1 rs2) s =
      .next (raiseFault .addOverflow s))

/-- R452, which the spec derives from R450: the source's two overflow conditions together are the one-step check of
the adder. -/
def Obligations.AddFaultsOnEitherSourceCondition : Prop :=
  ∀ (rd : RegIdx) (a b : U256), computeAdd rd a b = .error .addOverflow ↔
    2 ^ 128 ≤ (hi a).toNat + (hi b).toNat ∨
    (2 ^ 128 ≤ (lo a).toNat + (lo b).toNat ∧ (hi a).toNat + (hi b).toNat = max128)

/-- R470: SUB writes the difference, or faults if the subtrahend is the larger. -/
def Obligations.SubWritesTheTrueDifference : Prop :=
  ∀ (s : State) (rd rs1 rs2 : RegIdx), s.status.halted = false →
    ((s.reg rs2).toNat ≤ (s.reg rs1).toNat → exec (.sub rd rs1 rs2) s =
      .next (portOut .ok 0 (s.setReg rd (BitVec.ofNat 256 ((s.reg rs1).toNat - (s.reg rs2).toNat))))) ∧
    ((s.reg rs1).toNat < (s.reg rs2).toNat → exec (.sub rd rs1 rs2) s = .next (raiseFault .subOverflow s))

/-- R471, which the spec derives from R470 and R661: where there is a difference, the high limb covers the borrow, so
the defensive check never fires; where there is none, the precondition fires first. -/
def Obligations.SubDefensiveCheckNeverFires : Prop :=
  ∀ (rd : RegIdx) (a b : U256),
    (b.toNat ≤ a.toNat → (hi b).toNat + (subLow a b).2 ≤ (hi a).toNat ∧
      computeSub rd a b = writesReg rd (limbsOfNat ((hi a).toNat - (hi b).toNat - (subLow a b).2) (subLow a b).1)) ∧
    (a.toNat < b.toNat → less a b = true ∧ computeSub rd a b = .error .subOverflow)

/-! ### Multiplication -/

/-- R500: MUL writes the exact product, or faults exactly when it does not fit in 256 bits. -/
def Obligations.MulWritesTheExactProduct : Prop :=
  ∀ (s : State) (rd rs1 rs2 : RegIdx), s.status.halted = false →
    ((s.reg rs1).toNat * (s.reg rs2).toNat < 2 ^ 256 → exec (.mul rd rs1 rs2) s =
      .next (portOut .ok 0 (s.setReg rd (BitVec.ofNat 256 ((s.reg rs1).toNat * (s.reg rs2).toNat))))) ∧
    (2 ^ 256 ≤ (s.reg rs1).toNat * (s.reg rs2).toNat → exec (.mul rd rs1 rs2) s =
      .next (raiseFault .mulOverflow s))

/-- R501 and R502, which the spec derives from R500: the reference datapath of four partial products gives the exact
product and its overflow, and what MUL writes. -/
def Obligations.MulDatapathGivesTheProduct : Prop :=
  ∀ (rd : RegIdx) (a b : U256),
    (mulComb a b).hi * 2 ^ 128 + (mulComb a b).lo = a.toNat * b.toNat ∧
    ((mulComb a b).overflow = true ↔ 2 ^ 256 ≤ a.toNat * b.toNat) ∧
    computeMul rd a b = (if (mulComb a b).overflow then .error .mulOverflow
      else writesReg rd (limbsOfNat (mulComb a b).hi (mulComb a b).lo))

/-! ### Division -/

/-- R562, which the spec derives from R560 and R561: the division engine computes the exact quotient and remainder,
its loop gives them on every dividend (on the fast path's too), and a zero divisor faults. -/
def Obligations.DivisionEngineIsExact : Prop :=
  ∀ n d : U256, (d.toNat = 0 → divEngine n d = .error .divByZero) ∧
    (d.toNat ≠ 0 →
      divEngine n d = .ok (BitVec.ofNat 256 (n.toNat / d.toNat), BitVec.ofNat 256 (n.toNat % d.toNat)) ∧
      (engineLoop 256 (engineStart n d)).quor.toNat = n.toNat / d.toNat ∧
      (engineLoop 256 (engineStart n d)).remr.toNat = n.toNat % d.toNat)

/-- R561, which the spec derives from R560: the loop invariant, at the start of every iteration and after the last;
the engine's loop is these iterations. -/
def Obligations.DivisionLoopKeepsItsInvariant : Prop :=
  ∀ n d : U256, d.toNat ≠ 0 → engineLoop 256 (engineStart n d) = engineSteps n d 256 ∧
    ∀ j ≤ 256, (engineSteps n d j).remr.toNat = n.toNat / 2 ^ (256 - j) % d.toNat ∧
      (engineSteps n d j).quor.toNat = n.toNat / 2 ^ (256 - j) / d.toNat * 2 ^ (256 - j) ∧
      (engineSteps n d j).dvnd = n ∧ (engineSteps n d j).dvsr = d

/-- R570: DIV writes the quotient, or faults exactly when the divisor is 0. Of the hidden engine, and of the model's own
counter, nothing is said after a quotient (I7); that a faulting DIV leaves them as they were is log entry 3. -/
def Obligations.DivWritesTheQuotient : Prop :=
  ∀ (s : State) (rd rs1 rs2 : RegIdx), s.status.halted = false →
    ((s.reg rs2).toNat ≠ 0 → ∃ e n, exec (.div rd rs1 rs2) s = .next (portOut .ok 0
      { s.setReg rd (BitVec.ofNat 256 ((s.reg rs1).toNat / (s.reg rs2).toNat)) with engine := e, freeCount := n })) ∧
    ((s.reg rs2).toNat = 0 → exec (.div rd rs1 rs2) s = .next (raiseFault .divByZero s))

/-- R580: DIVREM writes quotient and remainder, or neither: it faults with DIV_BY_ZERO when the divisor is 0, and with
ILLEGAL_COMMAND when `rd = rd2`. Of the hidden engine, and of the model's own counter, nothing is said after a quotient
(I7); that a DIVREM with a zero divisor leaves them as they were is log entry 3. -/
def Obligations.DivremWritesQuotientAndRemainder : Prop :=
  ∀ (s : State) (rd rd2 rs1 rs2 : RegIdx), s.status.halted = false →
    (rd ≠ rd2 → (s.reg rs2).toNat ≠ 0 → ∃ e n, exec (.divrem rd rd2 rs1 rs2) s = .next (portOut .ok 0
      { (s.setReg rd (BitVec.ofNat 256 ((s.reg rs1).toNat / (s.reg rs2).toNat))).setReg rd2
        (BitVec.ofNat 256 ((s.reg rs1).toNat % (s.reg rs2).toNat)) with engine := e, freeCount := n })) ∧
    (rd ≠ rd2 → (s.reg rs2).toNat = 0 → exec (.divrem rd rd2 rs1 rs2) s = .next (raiseFault .divByZero s)) ∧
    (rd = rd2 → exec (.divrem rd rd2 rs1 rs2) s = .next (raiseFault .illegalCommand s))

/-- Item 1 of R590, which the spec derives from R562, R570 and R580: quotient times divisor plus remainder is the
dividend again, and neither MUL nor ADD faults on the way. -/
def Obligations.DivremMulAddGivesTheDividend : Prop :=
  ∀ (s : State) (q r p rs1 rs2 : RegIdx), s.status.halted = false → (s.reg rs2).toNat ≠ 0 →
    q ≠ r → q ≠ rs2 → r ≠ rs2 → r ≠ p →
    ∃ s1 s2 s3, exec (.divrem q r rs1 rs2) s = .next s1 ∧ exec (.mul p q rs2) s1 = .next s2 ∧
      exec (.add p p r) s2 = .next s3 ∧ s3.reg p = s.reg rs1 ∧ s3.status.halted = false

/-! ### Shifts -/

/-- R610, in the closed form of R611: SHL multiplies by a power of two inside 256 bits, and gives 0 for every count of
256 or more. -/
def Obligations.ShlMultipliesByAPowerOfTwo : Prop :=
  ∀ (s : State) (rd rs1 rs2 : RegIdx), s.status.halted = false → exec (.shl rd rs1 rs2) s =
    .next (portOut .ok 0 (s.setReg rd (if (s.reg rs2).toNat < 256
      then BitVec.ofNat 256 ((s.reg rs1).toNat * 2 ^ (s.reg rs2).toNat % 2 ^ 256) else 0)))

/-- R620, in the closed form of R621: SHR divides by a power of two, which is 0 for every count of 256 or more. -/
def Obligations.ShrDividesByAPowerOfTwo : Prop :=
  ∀ (s : State) (rd rs1 rs2 : RegIdx), s.status.halted = false →
    (∃ v : U256, exec (.shr rd rs1 rs2) s = .next (portOut .ok 0 (s.setReg rd v)) ∧
      v.toNat = (s.reg rs1).toNat / 2 ^ (s.reg rs2).toNat ∧ (256 ≤ (s.reg rs2).toNat → v = 0))

/-- R630, which the spec derives from R611 and R621: when a shift undoes the other, with `lz` and `tz` of the value,
and the counts 0 and 256. -/
def Obligations.ShiftsUndoEachOtherExactlyThen : Prop :=
  ∀ a b : U256,
    (b.toNat < 256 → (shiftRight (shiftLeft a b) b = a ↔ a = 0 ∨ b.toNat ≤ 256 - Nat.size a.toNat)) ∧
    (b.toNat < 256 → (shiftLeft (shiftRight a b) b = a ↔ a = 0 ∨ b.toNat ≤ padicValNat 2 a.toNat)) ∧
    (b.toNat = 0 → shiftLeft a b = a ∧ shiftRight a b = a) ∧
    (256 ≤ b.toNat → shiftLeft a b = 0 ∧ shiftRight a b = 0)

/-! ### OR, comparison and the pseudo-instructions -/

/-- R650: OR writes the bitwise OR, limb by limb. -/
def Obligations.OrWritesTheBitwiseOr : Prop :=
  ∀ (s : State) (rd rs1 rs2 : RegIdx), s.status.halted = false →
    exec (.or rd rs1 rs2) s = .next (portOut .ok 0 (s.setReg rd (s.reg rs1 ||| s.reg rs2))) ∧
    hi (s.reg rs1 ||| s.reg rs2) = hi (s.reg rs1) ||| hi (s.reg rs2) ∧
    lo (s.reg rs1 ||| s.reg rs2) = lo (s.reg rs1) ||| lo (s.reg rs2)

/-- R661, which the spec derives from R660: the lexicographic order on the limbs is the numeric order on values. -/
def Obligations.LimbOrderIsTheNumericOrder : Prop :=
  ∀ a b : U256, (cmp3 a b = .lt ↔ a.toNat < b.toNat) ∧ (cmp3 a b = .eq ↔ a.toNat = b.toNat) ∧
    (cmp3 a b = .gt ↔ b.toNat < a.toNat)

/-- R670: CMP writes LT, EQ and GT from the numeric comparison, and nothing else; BIT is unchanged. -/
def Obligations.CmpWritesTheThreeFlags : Prop :=
  ∀ (s : State) (rs1 rs2 : RegIdx), s.status.halted = false →
    exec (.cmp rs1 rs2) s = .next (portOut .ok 0 { s with status := { s.status with
      lt := decide ((s.reg rs1).toNat < (s.reg rs2).toNat)
      eq := decide ((s.reg rs1).toNat = (s.reg rs2).toNat)
      gt := decide ((s.reg rs2).toNat < (s.reg rs1).toNat) } })

/-- R341, which the spec derives from R650 and R470: MV is OR of a register with itself and copies it; CLR is SUB of a
register from itself and clears it; neither ever faults. -/
def Obligations.PseudoInstructionsAreTheirExpansions : Prop :=
  ∀ (s : State) (rd rs : RegIdx),
    exec (.mv rd rs) s = exec (.or rd rs rs) s ∧ exec (.clr rd) s = exec (.sub rd rd rd) s ∧
    encodeCommand (.mv rd rs) = encodeCommand (.or rd rs rs) ∧ encodeCommand (.clr rd) = encodeCommand (.sub rd rd rd) ∧
    (s.status.halted = false → exec (.mv rd rs) s = .next (portOut .ok 0 (s.setReg rd (s.reg rs))) ∧
      exec (.clr rd) s = .next (portOut .ok 0 (s.setReg rd 0)))

/-! ### Faults and HALTED -/

/-- R710: a fault is precise. Where a running core halts, the state is the one before but for FAULT and HALTED, and the
response FAULTED has been sent. That this takes in the hidden engine after a faulting division is log entry 3; the
model's own counter is log entry 1. -/
def Obligations.FaultsArePrecise : Prop :=
  ∀ (i : Instr) (s s' : State), s.status.halted = false → exec i s = .next s' → s'.status.halted = true →
    ∃ c, s'.status = { s.status with fault := some c, halted := true } ∧ s'.regs = s.regs ∧ s'.engine = s.engine ∧
      s'.freeCount = s.freeCount ∧ s'.inbox = s.inbox ∧
      s'.responses = s.responses ++ [{ code := .faulted, rdata := 0 }]

/-- R700, R703: a running core raises the faults of the table under their conditions, and no others. That a faulting
division leaves the hidden engine as it was is log entry 3; that the constructor `illegal` faults for every word it
holds is log entry 10. -/
def Obligations.OnlyTheListedFaultsAreRaised : Prop :=
  ∀ (i : Instr) (s : State), s.status.halted = false →
    (∀ c, raises i s c → exec i s = .next (raiseFault c s)) ∧
    ((∀ c, ¬ raises i s c) → ∃ s', exec i s = .next s' ∧ s'.status.halted = false ∧
      s'.status.fault = s.status.fault)

/-- R712: while HALTED, a LOAD and an EXEC of any word are refused and nothing changes; STORE and RDSTATUS are
serviced. -/
def Obligations.HaltedCoreRefusesLoadAndExec : Prop :=
  ∀ s : State, s.status.halted = true →
    (∀ r e data, exec (.load r e data) s = .next (refuseHalted s)) ∧
    (∀ w, exec (.exec w) s = .next (refuseHalted s)) ∧
    (∀ i : Instr, i.isCommand = true → exec i s = .next (refuseHalted s)) ∧
    (∀ r e, exec (.store r e) s = .next (portOut .ok (lanesOfBytes (pack e (s.reg r))) s)) ∧
    exec .rdstatus s = .next (portOut .ok (s.status.toWord.setWidth 256) s)

/-- R713, with R712: no transaction leaves HALTED. A program run from a halted state ends there, with every register and
STATUS as they were, the first code among it, and every transaction answered as R712 says. Reset clears HALTED and
FAULT; that a reset next in the inbox comes before a transaction in service is log entry 6. -/
def Obligations.OnlyResetLeavesHalted : Prop :=
  (∀ (ts : List Transaction) (s : State), s.status.halted = true →
    ∃ s', runProgram ts s = .next s' ∧ s'.regs = s.regs ∧ s'.status = s.status ∧
      s'.responses = ts.map (haltedResponse s)) ∧
  (∀ (s : State) (rest : List HostEvent), s.inbox = .reset :: rest →
    ∃ s', step s = .next s' ∧ s'.status.halted = false ∧ s'.status.fault = none ∧ ∀ r, s'.reg r = 0)

/-- R713, and R711, which the spec derives from R710 and R336: after a fault, the rest of a program changes nothing:
the registers are those before the faulting transaction, and STATUS keeps the first code. -/
def Obligations.FaultingRunKeepsTheStateBeforeTheFault : Prop :=
  ∀ (ts us : List Transaction) (t : Transaction) (s s1 s2 : State), runProgram ts s = .next s1 →
    s1.status.halted = false → runProgram (ts ++ [t]) s = .next s2 → s2.status.halted = true →
    ∃ s3, runProgram (ts ++ t :: us) s = .next s3 ∧ s3.regs = s1.regs ∧ s3.status = s2.status

/-! ### Frames -/

/-- R102: every register that an instruction does not name as a destination keeps its value. -/
def Obligations.OtherRegistersAreUnchanged : Prop :=
  ∀ (i : Instr) (s s' : State) (r : RegIdx), exec i s = .next s' → r ∉ destinations i → s'.reg r = s.reg r

/-- R110, R120, R131: a result flag is written only by CMP (LT, EQ, GT) and BITAT (BIT); HALTED and FAULT only where a
fault is raised; the hidden engine, and the model's own counter, only by DIV and DIVREM. -/
def Obligations.StatusAndHiddenStateFrame : Prop :=
  ∀ (i : Instr) (s s' : State), exec i s = .next s' →
    (∀ f, f ∉ flagsWritten i → s'.status.flag f = s.status.flag f) ∧
    (s'.responses ≠ s.responses ++ [{ code := .faulted, rdata := 0 }] →
      s'.status.halted = s.status.halted ∧ s'.status.fault = s.status.fault) ∧
    (usesEngine i = false → s'.engine = s.engine ∧ s'.freeCount = s.freeCount)

/-- R131, I7: the division engine's hidden registers cannot be observed: whatever they hold, and whatever free values
come, the registers, STATUS and the responses are the same. -/
def Obligations.HiddenEngineIsNeverObserved : Prop :=
  ∀ (i : Instr) (s s' : State) (e : DivEngine) (n : Nat), exec i s = .next s' →
    ∃ t', exec i { s with engine := e, freeCount := n } = .next t' ∧ t'.regs = s'.regs ∧ t'.status = s'.status ∧
      t'.responses = s'.responses ∧ t'.inbox = s'.inbox ∧ t'.inService = s'.inService

/-! ### Invariants and runs -/

/-- The invariant, R122 and R111's two cases, which the spec derives, holds after reset (R140). -/
def Obligations.ConsistencyHoldsAfterReset : Prop := State.reset.Inv ∧ State.reset.idle

/-- The invariant, R122 and R111's two cases, which the spec derives: every step keeps it, and leaves the port empty
(R321) if it was. -/
def Obligations.StepKeepsConsistency : Prop :=
  ∀ s s' : State, s.Inv → step s = .next s' → s'.Inv ∧ (s.idle → s'.idle)

/-- R122, which the spec derives from R120, R140 and R710: on every run from reset, whatever the host sends and
whenever it resets, HALTED = 1 exactly when FAULT is not 0, and FAULT is read as one of the codes 0 to 6. -/
def Obligations.HaltedIffFaultOnEveryRun : Prop :=
  ∀ (events : List HostEvent) (n : Nat) (s' : State),
    Host.Core.run Sys2Proof.core n { State.reset with inbox := events } = .next s' →
      (s'.status.halted = true ↔ faultField s'.status.fault ≠ 0) ∧ (faultField s'.status.fault).toNat ≤ 6

/-- R111, which the spec derives from R110 and R140: a completed CMP leaves exactly one of LT, EQ, GT set; that stays
so until reset; without a completed CMP, three zero flags stay zero, as they are after reset. -/
def Obligations.OneComparisonFlagUntilReset : Prop :=
  State.reset.status.uncompared = true ∧
  (∀ (s : State) (rs1 rs2 : RegIdx), s.status.halted = false →
    ∃ s', exec (.cmp rs1 rs2) s = .next s' ∧ s'.status.compared = true) ∧
  (∀ s s' : State, (∀ rest, s.inbox ≠ .reset :: rest) → step s = .next s' →
    (s.status.compared = true → s'.status.compared = true) ∧
    ((∀ t s1 rs1 rs2, nextTransaction s = some (t, s1) → decode t ≠ .cmp rs1 rs2) →
      s.status.uncompared = true → s'.status.uncompared = true))

/-- R230, R325: a program runs to its end with one response for each transaction, and the run of two programs one after
the other is the second's run from where the first ended. -/
def Obligations.ProgramsRunInPortOrder : Prop :=
  ∀ (xs ys : List Transaction) (s : State), ∃ s1 s2 s3, runProgram xs s = .next s1 ∧ runProgram ys s1 = .next s2 ∧
    runProgram (xs ++ ys) s = .next s3 ∧ s1.responses.length = xs.length ∧
    s3.observe = { s2.observe with responses := s1.responses ++ s2.responses }

/-- R231: instructions of two masters that use disjoint registers, and do not fault, commute on the registers, and on
STATUS if they write no common flag. -/
def Obligations.DisjointInstructionsCommute : Prop :=
  ∀ (i j : Instr) (s si sj sij sji : State),
    (∀ r ∈ destinations i, r ∉ destinations j ∧ r ∉ sources j) → (∀ r ∈ destinations j, r ∉ sources i) →
    exec i s = .next si → exec j si = .next sij → exec j s = .next sj → exec i sj = .next sji →
    sij.status.halted = false → sji.status.halted = false →
    sij.regs = sji.regs ∧ ((∀ f ∈ flagsWritten i, f ∉ flagsWritten j) → sij.status = sji.status)

/-- R231: every interleaving of several masters' sequences is admitted: it runs to its end, with one response for each
transaction of each master. -/
def Obligations.EveryInterleavingOfMastersRuns : Prop :=
  ∀ (ms : List (List Transaction)) (zs : List Transaction) (s : State), Merged ms zs →
    ∃ s', runProgram zs s = .next s' ∧ MastersRun ms s s' ∧ s'.responses.length = (ms.map List.length).sum

/-! ### The signal-level binding -/

/-- R322, R820: at signal level, a request taken when the port is ready has, after exactly its latency in clock
cycles, the effect that the transaction has at transaction level, and its response is offered then and not before. The
latency is held to R830's table by LatencyIsTheTable. That the effect comes with the last of these edges is log entry
12; the latency of a faulting MUL is log entry 13. -/
def Obligations.ClockedRequestMatchesTheTransaction : Prop :=
  ∀ (c : ClockState) (p : PinsIn) (ps : List PinsIn) (s' : State),
    c.phase = .ready → p.rst = false → p.reqValid = true → handshakeBroken p c.offer = false →
    (∀ q ∈ ps, q.rst = false ∧ q.reqValid = false) →
    ps.length + 1 = latency p.req.transaction (portIn p.req.transaction c.core.inbox c.core) →
    exec (decodeTransaction p.req.transaction) (portIn p.req.transaction c.core.inbox c.core) = .next s' →
    (∃ c', clockRun (p :: ps) c = .next c' ∧ c'.core = s' ∧
      pinsOut false c' = { reqReady := false, rsp := s'.responses.getLast? } ∧ s'.responses.getLast? ≠ none) ∧
    (∀ k < ps.length, ∃ c', clockRun (p :: ps.take k) c = .next c' ∧
      pinsOut false c' = { reqReady := false, rsp := none })

/-- R800, and R801, which the spec derives: an edge with `rst = 1` gives the reset state whatever was going on;
`req_ready` and `rsp_valid` are 0 while `rst = 1`, and the first edge with `rst = 0` makes the core ready. That the
record of responses starts anew is log entry 5; that an offer made while `rst = 1` must be held is log entry 12. -/
def Obligations.ResetInputResetsTheBlock : Prop :=
  ∀ (c : ClockState) (p q : PinsIn), p.rst = true →
    ∃ c', clockEdge p c = .next c' ∧ (∀ r, c'.core.reg r = 0) ∧ c'.core.status = State.reset.status ∧
      c'.core.inService = none ∧ c'.core.responses = [] ∧ pinsOut true c = { reqReady := false, rsp := none } ∧
      (∀ rst, pinsOut rst c' = { reqReady := false, rsp := none }) ∧
      (q.rst = false → (p.reqValid = true → q.reqValid = true ∧ q.req = p.req) →
        ∃ c'', clockEdge q c' = .next c'' ∧ c''.core = c'.core ∧ pinsOut false c'' = { reqReady := true, rsp := none })

/-- R322, R823: a host that drops or changes a request it offered and that was not taken is outside the spec, and the
layer refuses it; nothing else is refused. What counts as on offer after an edge is log entry 12. -/
def Obligations.OnlyABrokenHandshakeIsRefused : Prop :=
  ∀ (c : ClockState) (p : PinsIn), p.rst = false →
    ((∃ q, c.offer = some q ∧ (p.reqValid = false ∨ p.req ≠ q)) →
      clockEdge p c = .refused .handshakeViolation) ∧
    ((∀ q, c.offer = some q → p.reqValid = true ∧ p.req = q) → ∃ c', clockEdge p c = .next c')

/-- R321, R322: an offered response is held, and no request is taken, until the host takes it; then the port is ready.
-/
def Obligations.ResponseIsHeldUntilItIsTaken : Prop :=
  ∀ (c : ClockState) (p : PinsIn), c.phase = .responding → p.rst = false → handshakeBroken p c.offer = false →
    ∃ c', clockEdge p c = .next c' ∧ c'.core = c.core ∧
      (p.rspReady = false → pinsOut false c' = pinsOut false c ∧ (pinsOut false c').reqReady = false) ∧
      (p.rspReady = true → pinsOut false c' = { reqReady := true, rsp := none })

/-- R830: the latencies, in clock cycles. 1 for whatever is sent to a halted core, and for the rows of one cycle, an
illegal word among them; `MUL_LATENCY`, at least 1, for MUL, a faulting one too (log entry 13); for DIV and DIVREM 1
with a zero divisor or a dividend below the divisor, and 257 on the loop path. -/
def Obligations.LatencyIsTheTable : Prop :=
  1 ≤ Config.mulLatency ∧
  ∀ (t : Transaction) (s : State),
    (s.status.halted = true → latency t s = 1) ∧
    (takesOneCycle (decode t) = true → latency t s = 1) ∧
    (s.status.halted = false → ∀ rd rd2 rs1 rs2,
      (decode t = .mul rd rs1 rs2 → latency t s = Config.mulLatency) ∧
      (decode t = .div rd rs1 rs2 ∨ decode t = .divrem rd rd2 rs1 rs2 →
        ((s.reg rs2).toNat = 0 ∨ (s.reg rs1).toNat < (s.reg rs2).toNat → latency t s = 1) ∧
        ((s.reg rs2).toNat ≠ 0 → (s.reg rs2).toNat ≤ (s.reg rs1).toNat → latency t s = 257)))
end

