-- ==== Sys2Proof/Laws/Encoding.lean ====
section
/-! SUPPORT. Where the fields of an encoded command word lie (spec/30_encoding.md R330, R340). -/

namespace Sys2Proof

/-- A register placed at a field is read back there, and leaves every other field 0. -/
theorem placeReg_rd : ∀ r : RegIdx, (placeReg r 8).extractLsb' 0 8 = 0 ∧ (placeReg r 8).extractLsb' 8 4 = BitVec.ofFin r ∧
    (placeReg r 8).extractLsb' 12 4 = 0 ∧ (placeReg r 8).extractLsb' 16 4 = 0 ∧
    (placeReg r 8).extractLsb' 20 4 = 0 ∧ (placeReg r 8).extractLsb' 24 8 = 0 := by decide

theorem placeReg_rs1 : ∀ r : RegIdx, (placeReg r 12).extractLsb' 0 8 = 0 ∧ (placeReg r 12).extractLsb' 8 4 = 0 ∧
    (placeReg r 12).extractLsb' 12 4 = BitVec.ofFin r ∧ (placeReg r 12).extractLsb' 16 4 = 0 ∧
    (placeReg r 12).extractLsb' 20 4 = 0 ∧ (placeReg r 12).extractLsb' 24 8 = 0 := by decide

theorem placeReg_rs2 : ∀ r : RegIdx, (placeReg r 16).extractLsb' 0 8 = 0 ∧ (placeReg r 16).extractLsb' 8 4 = 0 ∧
    (placeReg r 16).extractLsb' 12 4 = 0 ∧ (placeReg r 16).extractLsb' 16 4 = BitVec.ofFin r ∧
    (placeReg r 16).extractLsb' 20 4 = 0 ∧ (placeReg r 16).extractLsb' 24 8 = 0 := by decide

theorem placeReg_rd2 : ∀ r : RegIdx, (placeReg r 20).extractLsb' 0 8 = 0 ∧ (placeReg r 20).extractLsb' 8 4 = 0 ∧
    (placeReg r 20).extractLsb' 12 4 = 0 ∧ (placeReg r 20).extractLsb' 16 4 = 0 ∧
    (placeReg r 20).extractLsb' 20 4 = BitVec.ofFin r ∧ (placeReg r 20).extractLsb' 24 8 = 0 := by decide

/-- The fields of an encoded word, for an opcode `o` in bits [7:0]. -/
theorem commandWord_fields (o : BitVec 8) {op : CommandWord} (rd rd2 rs1 rs2 : RegIdx) (ho : op = o.setWidth 32) :
    (commandWord op rd rd2 rs1 rs2).extractLsb' 0 8 = o ∧
    (commandWord op rd rd2 rs1 rs2).extractLsb' 8 4 = BitVec.ofFin rd ∧
    (commandWord op rd rd2 rs1 rs2).extractLsb' 12 4 = BitVec.ofFin rs1 ∧
    (commandWord op rd rd2 rs1 rs2).extractLsb' 16 4 = BitVec.ofFin rs2 ∧
    (commandWord op rd rd2 rs1 rs2).extractLsb' 20 4 = BitVec.ofFin rd2 ∧
    (commandWord op rd rd2 rs1 rs2).extractLsb' 24 8 = 0 := by
  obtain ⟨a0, a1, a2, a3, a4, a5⟩ := placeReg_rd rd
  obtain ⟨b0, b1, b2, b3, b4, b5⟩ := placeReg_rs1 rs1
  obtain ⟨c0, c1, c2, c3, c4, c5⟩ := placeReg_rs2 rs2
  obtain ⟨d0, d1, d2, d3, d4, d5⟩ := placeReg_rd2 rd2
  obtain ⟨e0, e1, e2, e3, e4, e5⟩ : op.extractLsb' 0 8 = o ∧ op.extractLsb' 8 4 = 0 ∧ op.extractLsb' 12 4 = 0 ∧
      op.extractLsb' 16 4 = 0 ∧ op.extractLsb' 20 4 = 0 ∧ op.extractLsb' 24 8 = 0 := by
    subst ho
    refine ⟨?_, ?_, ?_, ?_, ?_, ?_⟩ <;>
    · apply BitVec.eq_of_toNat_eq
      have := o.isLt
      simp [BitVec.extractLsb'_toNat, Nat.shiftRight_eq_div_pow]
      try omega
  clear ho
  refine ⟨?_, ?_, ?_, ?_, ?_, ?_⟩ <;> simp [commandWord, BitVec.extractLsb'_or, *]

end Sys2Proof
end

