-- ==== Sys2Proof/Laws/Operands.lean ====
section
/-! SUPPORT. The small lemmas of the limbs and of the byte packing (spec/00_scope.md R9, spec/20_memory.md). -/

namespace Sys2Proof.Machine

theorem hi_toNat (v : U256) : (hi v).toNat = v.toNat / 2 ^ 128 := by
  have h := v.isLt
  simp only [hi, BitVec.extractLsb'_toNat, Nat.shiftRight_eq_div_pow]
  exact Nat.mod_eq_of_lt (by omega)

theorem lo_toNat (v : U256) : (lo v).toNat = v.toNat % 2 ^ 128 := by
  simp [lo, BitVec.extractLsb'_toNat]

/-- R9: `val(v) = hi(v)·2^128 + lo(v)`. -/
theorem toNat_eq_limbs (v : U256) : v.toNat = (hi v).toNat * 2 ^ 128 + (lo v).toNat := by
  rw [hi_toNat, lo_toNat]; omega

theorem limbs_toNat (h l : Limb) : (limbs h l).toNat = h.toNat * 2 ^ 128 + l.toNat := by
  have hl := l.isLt
  rw [limbs, BitVec.toNat_append, Nat.shiftLeft_eq, ← Nat.shiftLeft_eq, Nat.shiftLeft_add_eq_or_of_lt hl]

@[simp] theorem hi_limbs (h l : Limb) : hi (limbs h l) = h := by
  apply BitVec.eq_of_toNat_eq
  have hl := l.isLt
  rw [hi_toNat, limbs_toNat]; omega

@[simp] theorem lo_limbs (h l : Limb) : lo (limbs h l) = l := by
  apply BitVec.eq_of_toNat_eq
  have hl := l.isLt
  rw [lo_toNat, limbs_toNat]; omega

/-- A value is the pair of its limbs. -/
theorem limbs_hi_lo (v : U256) : limbs (hi v) (lo v) = v := by
  apply BitVec.eq_of_toNat_eq
  rw [limbs_toNat, ← toNat_eq_limbs]

/-- Limbs computed as numbers below `2^128` make the value they stand for. -/
theorem limbsOfNat_toNat {h l : Nat} (hh : h < 2 ^ 128) (hl : l < 2 ^ 128) :
    (limbsOfNat h l).toNat = h * 2 ^ 128 + l := by
  rw [limbsOfNat, limbs_toNat, BitVec.toNat_ofNat, BitVec.toNat_ofNat, Nat.mod_eq_of_lt hh, Nat.mod_eq_of_lt hl]

/-- `n AND MAX128` is the low 128 bits of `n`. -/
theorem and_max128 (n : Nat) : n &&& max128 = n % 2 ^ 128 := Nat.and_two_pow_sub_one_eq_mod n 128

@[simp] theorem packBE_length (v : U256) : (packBE v).length = 32 := by simp [packBE]
@[simp] theorem packLE_length (v : U256) : (packLE v).length = 32 := by simp [packLE]
@[simp] theorem pack_length (e : Direction) (v : U256) : (pack e v).length = 32 := by cases e <;> simp [pack]
@[simp] theorem bytesOfLanes_length (d : BitVec 256) : (bytesOfLanes d).length = 32 := by simp [bytesOfLanes]

@[simp] theorem numberLE_nil : numberLE [] = 0 := rfl
@[simp] theorem numberLE_cons (b : Byte) (bs : List Byte) : numberLE (b :: bs) = b.toNat + 256 * numberLE bs := rfl

/-- A little-endian number is below `256` to its length. -/
theorem numberLE_lt (bs : List Byte) : numberLE bs < 256 ^ bs.length := by
  induction bs with
  | nil => simp
  | cons b bs ih =>
    have hb := b.isLt
    simp only [numberLE_cons, List.length_cons, pow_succ]
    omega

end Sys2Proof.Machine
end

