-- ==== Sys2Proof/Laws/State.lean ====
section
/-! SUPPORT. The small lemmas of the state: one for each field and each update, and what reading a register or a flag
after a write gives. -/

namespace Sys2Proof.Machine

/-! ### setReg -/

@[simp] theorem setReg_regs (s : State) (i : RegIdx) (v : U256) :
    (s.setReg i v).regs = s.regs.set i v := rfl
@[simp] theorem setReg_status (s : State) (i : RegIdx) (v : U256) :
    (s.setReg i v).status = s.status := rfl
@[simp] theorem setReg_engine (s : State) (i : RegIdx) (v : U256) :
    (s.setReg i v).engine = s.engine := rfl
@[simp] theorem setReg_inService (s : State) (i : RegIdx) (v : U256) :
    (s.setReg i v).inService = s.inService := rfl
@[simp] theorem setReg_inbox (s : State) (i : RegIdx) (v : U256) :
    (s.setReg i v).inbox = s.inbox := rfl
@[simp] theorem setReg_responses (s : State) (i : RegIdx) (v : U256) :
    (s.setReg i v).responses = s.responses := rfl
@[simp] theorem setReg_freeCount (s : State) (i : RegIdx) (v : U256) :
    (s.setReg i v).freeCount = s.freeCount := rfl

/-! ### setFlag -/

@[simp] theorem setFlag_regs (s : State) (f : Flag) (v : Bool) :
    (s.setFlag f v).regs = s.regs := rfl
@[simp] theorem setFlag_status (s : State) (f : Flag) (v : Bool) :
    (s.setFlag f v).status = s.status.setFlag f v := rfl
@[simp] theorem setFlag_engine (s : State) (f : Flag) (v : Bool) :
    (s.setFlag f v).engine = s.engine := rfl
@[simp] theorem setFlag_inService (s : State) (f : Flag) (v : Bool) :
    (s.setFlag f v).inService = s.inService := rfl
@[simp] theorem setFlag_inbox (s : State) (f : Flag) (v : Bool) :
    (s.setFlag f v).inbox = s.inbox := rfl
@[simp] theorem setFlag_responses (s : State) (f : Flag) (v : Bool) :
    (s.setFlag f v).responses = s.responses := rfl
@[simp] theorem setFlag_freeCount (s : State) (f : Flag) (v : Bool) :
    (s.setFlag f v).freeCount = s.freeCount := rfl

/-! ### portIn -/

@[simp] theorem portIn_regs (t : Transaction) (rest : List HostEvent) (s : State) :
    (portIn t rest s).regs = s.regs := rfl
@[simp] theorem portIn_status (t : Transaction) (rest : List HostEvent) (s : State) :
    (portIn t rest s).status = s.status := rfl
@[simp] theorem portIn_engine (t : Transaction) (rest : List HostEvent) (s : State) :
    (portIn t rest s).engine = s.engine := rfl
@[simp] theorem portIn_inService (t : Transaction) (rest : List HostEvent) (s : State) :
    (portIn t rest s).inService = some t := rfl
@[simp] theorem portIn_inbox (t : Transaction) (rest : List HostEvent) (s : State) :
    (portIn t rest s).inbox = rest := rfl
@[simp] theorem portIn_responses (t : Transaction) (rest : List HostEvent) (s : State) :
    (portIn t rest s).responses = s.responses := rfl
@[simp] theorem portIn_freeCount (t : Transaction) (rest : List HostEvent) (s : State) :
    (portIn t rest s).freeCount = s.freeCount := rfl

/-! ### portOut -/

@[simp] theorem portOut_regs (c : ResponseCode) (d : BitVec 256) (s : State) :
    (portOut c d s).regs = s.regs := rfl
@[simp] theorem portOut_status (c : ResponseCode) (d : BitVec 256) (s : State) :
    (portOut c d s).status = s.status := rfl
@[simp] theorem portOut_engine (c : ResponseCode) (d : BitVec 256) (s : State) :
    (portOut c d s).engine = s.engine := rfl
@[simp] theorem portOut_inService (c : ResponseCode) (d : BitVec 256) (s : State) :
    (portOut c d s).inService = none := rfl
@[simp] theorem portOut_inbox (c : ResponseCode) (d : BitVec 256) (s : State) :
    (portOut c d s).inbox = s.inbox := rfl
@[simp] theorem portOut_responses (c : ResponseCode) (d : BitVec 256) (s : State) :
    (portOut c d s).responses = s.responses ++ [{ code := c, rdata := d }] := rfl
@[simp] theorem portOut_freeCount (c : ResponseCode) (d : BitVec 256) (s : State) :
    (portOut c d s).freeCount = s.freeCount := rfl

/-! ### raiseFault -/

@[simp] theorem raiseFault_regs (c : FaultCause) (s : State) :
    (raiseFault c s).regs = s.regs := rfl
@[simp] theorem raiseFault_status (c : FaultCause) (s : State) :
    (raiseFault c s).status = { s.status with fault := some c, halted := true } := rfl
@[simp] theorem raiseFault_engine (c : FaultCause) (s : State) :
    (raiseFault c s).engine = s.engine := rfl
@[simp] theorem raiseFault_inService (c : FaultCause) (s : State) :
    (raiseFault c s).inService = none := rfl
@[simp] theorem raiseFault_inbox (c : FaultCause) (s : State) :
    (raiseFault c s).inbox = s.inbox := rfl
@[simp] theorem raiseFault_responses (c : FaultCause) (s : State) :
    (raiseFault c s).responses = s.responses ++ [{ code := .faulted, rdata := 0 }] := rfl
@[simp] theorem raiseFault_freeCount (c : FaultCause) (s : State) :
    (raiseFault c s).freeCount = s.freeCount := rfl

/-! ### refuseHalted -/

@[simp] theorem refuseHalted_regs (s : State) :
    (refuseHalted s).regs = s.regs := rfl
@[simp] theorem refuseHalted_status (s : State) :
    (refuseHalted s).status = s.status := rfl
@[simp] theorem refuseHalted_engine (s : State) :
    (refuseHalted s).engine = s.engine := rfl
@[simp] theorem refuseHalted_inService (s : State) :
    (refuseHalted s).inService = none := rfl
@[simp] theorem refuseHalted_inbox (s : State) :
    (refuseHalted s).inbox = s.inbox := rfl
@[simp] theorem refuseHalted_responses (s : State) :
    (refuseHalted s).responses = s.responses ++ [{ code := .halted, rdata := 0 }] := rfl
@[simp] theorem refuseHalted_freeCount (s : State) :
    (refuseHalted s).freeCount = s.freeCount := rfl

/-! ### hostReset -/

@[simp] theorem hostReset_regs (rest : List HostEvent) (s : State) :
    (hostReset rest s).regs = Vector.replicate Config.numRegs 0 := rfl
@[simp] theorem hostReset_status (rest : List HostEvent) (s : State) :
    (hostReset rest s).status = Status.reset := rfl
@[simp] theorem hostReset_engine (rest : List HostEvent) (s : State) :
    (hostReset rest s).engine = engineReset := rfl
@[simp] theorem hostReset_inService (rest : List HostEvent) (s : State) :
    (hostReset rest s).inService = none := rfl
@[simp] theorem hostReset_inbox (rest : List HostEvent) (s : State) :
    (hostReset rest s).inbox = rest := rfl
@[simp] theorem hostReset_responses (rest : List HostEvent) (s : State) :
    (hostReset rest s).responses = [] := rfl
@[simp] theorem hostReset_freeCount (rest : List HostEvent) (s : State) :
    (hostReset rest s).freeCount = s.freeCount := rfl

/-! ### releaseEngine -/

@[simp] theorem releaseEngine_regs (s : State) :
    (releaseEngine s).regs = s.regs := rfl
@[simp] theorem releaseEngine_status (s : State) :
    (releaseEngine s).status = s.status := rfl
@[simp] theorem releaseEngine_engine (s : State) :
    (releaseEngine s).engine = Config.engineAfter s.freeCount := rfl
@[simp] theorem releaseEngine_inService (s : State) :
    (releaseEngine s).inService = s.inService := rfl
@[simp] theorem releaseEngine_inbox (s : State) :
    (releaseEngine s).inbox = s.inbox := rfl
@[simp] theorem releaseEngine_responses (s : State) :
    (releaseEngine s).responses = s.responses := rfl
@[simp] theorem releaseEngine_freeCount (s : State) :
    (releaseEngine s).freeCount = s.freeCount + 1 := rfl

/-! ### launch -/

@[simp] theorem launch_regs (s : State) (ts : List Transaction) :
    (s.launch ts).regs = s.regs := rfl
@[simp] theorem launch_status (s : State) (ts : List Transaction) :
    (s.launch ts).status = s.status := rfl
@[simp] theorem launch_engine (s : State) (ts : List Transaction) :
    (s.launch ts).engine = s.engine := rfl
@[simp] theorem launch_inService (s : State) (ts : List Transaction) :
    (s.launch ts).inService = none := rfl
@[simp] theorem launch_inbox (s : State) (ts : List Transaction) :
    (s.launch ts).inbox = ts.map .request := rfl
@[simp] theorem launch_responses (s : State) (ts : List Transaction) :
    (s.launch ts).responses = [] := rfl
@[simp] theorem launch_freeCount (s : State) (ts : List Transaction) :
    (s.launch ts).freeCount = s.freeCount := rfl

/-! ### Reading after writing -/

theorem reg_setReg (s : State) (i j : RegIdx) (v : U256) :
    (s.setReg i v).reg j = if i = j then v else s.reg j := by
  simp [State.reg, State.setReg, Vector.getElem_set, Fin.ext_iff]

@[simp] theorem reg_setReg_same (s : State) (i : RegIdx) (v : U256) : (s.setReg i v).reg i = v := by
  simp [reg_setReg]

theorem reg_setReg_other (s : State) {i j : RegIdx} (v : U256) (h : i ≠ j) : (s.setReg i v).reg j = s.reg j := by
  simp [reg_setReg, h]

@[simp] theorem setFlag_reg (s : State) (f : Flag) (v : Bool) (j : RegIdx) :
    (s.setFlag f v).reg j = s.reg j := rfl
@[simp] theorem portIn_reg (t : Transaction) (rest : List HostEvent) (s : State) (j : RegIdx) :
    (portIn t rest s).reg j = s.reg j := rfl
@[simp] theorem portOut_reg (c : ResponseCode) (d : BitVec 256) (s : State) (j : RegIdx) :
    (portOut c d s).reg j = s.reg j := rfl
@[simp] theorem raiseFault_reg (c : FaultCause) (s : State) (j : RegIdx) :
    (raiseFault c s).reg j = s.reg j := rfl
@[simp] theorem refuseHalted_reg (s : State) (j : RegIdx) :
    (refuseHalted s).reg j = s.reg j := rfl
@[simp] theorem releaseEngine_reg (s : State) (j : RegIdx) :
    (releaseEngine s).reg j = s.reg j := rfl
@[simp] theorem launch_reg (s : State) (ts : List Transaction) (j : RegIdx) :
    (s.launch ts).reg j = s.reg j := rfl

@[simp] theorem hostReset_reg (rest : List HostEvent) (s : State) (j : RegIdx) : (hostReset rest s).reg j = 0 := by
  simp [State.reg, hostReset, State.reset]

/-- Writing back what a register holds changes nothing. -/
theorem setReg_reg (s : State) (i : RegIdx) : s.setReg i (s.reg i) = s := by
  cases s; simp [State.setReg, State.reg]

/-- Two states with the same registers, read one by one, have the same register file. -/
theorem regs_ext {s s' : State} (h : ∀ i, s.reg i = s'.reg i) : s.regs = s'.regs := by
  refine Vector.ext fun i hi => ?_
  simpa [State.reg] using h ⟨i, hi⟩

/-! ### Flags -/

@[simp] theorem setFlag_halted (st : Status) (f : Flag) (v : Bool) : (st.setFlag f v).halted = st.halted := by
  cases f <;> rfl

@[simp] theorem setFlag_fault (st : Status) (f : Flag) (v : Bool) : (st.setFlag f v).fault = st.fault := by
  cases f <;> rfl

theorem flag_setFlag (st : Status) (f g : Flag) (v : Bool) :
    (st.setFlag f v).flag g = if f = g then v else st.flag g := by
  cases f <;> cases g <;> rfl

end Sys2Proof.Machine
end

