-- ==== Sys2Proof/Laws/Ops.lean ====
section
/-! SUPPORT. One lemma for each shared operation that says once everything it can do. -/

namespace Sys2Proof.Machine

/-! ### performWrites -/

/-- A list of register writes touches the register file alone. -/
theorem foldl_setReg_frame (ws : List (RegIdx × U256)) (s : State) :
    let t := ws.foldl (fun s p => s.setReg p.1 p.2) s
    t.status = s.status ∧ t.engine = s.engine ∧ t.inService = s.inService ∧ t.inbox = s.inbox ∧
      t.responses = s.responses ∧ t.freeCount = s.freeCount := by
  induction ws generalizing s with
  | nil => simp
  | cons w ws ih => simpa using ih (s.setReg w.1 w.2)

/-- A list of register writes leaves every register that it does not name. -/
theorem foldl_setReg_other (ws : List (RegIdx × U256)) (s : State) (i : RegIdx) (h : i ∉ ws.map Prod.fst) :
    (ws.foldl (fun s p => s.setReg p.1 p.2) s).reg i = s.reg i := by
  induction ws generalizing s with
  | nil => rfl
  | cons w ws ih =>
    simp only [List.map_cons, List.mem_cons, not_or] at h
    rw [List.foldl_cons, ih _ h.2, reg_setReg_other _ _ (Ne.symm h.1)]

/-- A list of flag writes touches STATUS alone, and of it neither HALTED nor FAULT. -/
theorem foldl_setFlag_frame (fs : List (Flag × Bool)) (s : State) :
    let t := fs.foldl (fun s p => s.setFlag p.1 p.2) s
    t.regs = s.regs ∧ t.status.halted = s.status.halted ∧ t.status.fault = s.status.fault ∧ t.engine = s.engine ∧
      t.inService = s.inService ∧ t.inbox = s.inbox ∧ t.responses = s.responses ∧ t.freeCount = s.freeCount := by
  induction fs generalizing s with
  | nil => simp
  | cons f fs ih => simpa using ih (s.setFlag f.1 f.2)

/-- A list of flag writes leaves every flag that it does not name. -/
theorem foldl_setFlag_other (fs : List (Flag × Bool)) (s : State) (g : Flag) (h : g ∉ fs.map Prod.fst) :
    (fs.foldl (fun s p => s.setFlag p.1 p.2) s).status.flag g = s.status.flag g := by
  induction fs generalizing s with
  | nil => rfl
  | cons f fs ih =>
    simp only [List.map_cons, List.mem_cons, not_or] at h
    rw [List.foldl_cons, ih _ h.2, setFlag_status, flag_setFlag, if_neg (Ne.symm h.1)]

/-- The writes of a command reach registers, flags and the hidden engine only. -/
theorem performWrites_frame (w : Writes) (s : State) :
    (performWrites w s).status.halted = s.status.halted ∧ (performWrites w s).status.fault = s.status.fault ∧
      (performWrites w s).inService = s.inService ∧ (performWrites w s).inbox = s.inbox ∧
      (performWrites w s).responses = s.responses := by
  have hf := foldl_setFlag_frame w.flags (w.regs.foldl (fun s p => s.setReg p.1 p.2) s)
  have hr := foldl_setReg_frame w.regs s
  unfold performWrites
  split <;> simp_all

/-- A register that a command does not write keeps its value. -/
theorem performWrites_reg_other (w : Writes) (s : State) (i : RegIdx) (h : i ∉ w.regs.map Prod.fst) :
    (performWrites w s).reg i = s.reg i := by
  have hf := (foldl_setFlag_frame w.flags (w.regs.foldl (fun s p => s.setReg p.1 p.2) s)).1
  have hr := foldl_setReg_other w.regs s i h
  unfold performWrites
  split <;> simp_all [State.reg]

/-- A flag that a command does not write keeps its value. -/
theorem performWrites_flag_other (w : Writes) (s : State) (g : Flag) (h : g ∉ w.flags.map Prod.fst) :
    (performWrites w s).status.flag g = s.status.flag g := by
  have hf := foldl_setFlag_other w.flags (w.regs.foldl (fun s p => s.setReg p.1 p.2) s) g h
  have hr := (foldl_setReg_frame w.regs s).1
  unfold performWrites
  split <;> simp_all

/-- One register written and nothing else. -/
@[simp] theorem performWrites_reg (rd : RegIdx) (v : U256) (s : State) :
    performWrites { regs := [(rd, v)], flags := [] } s = s.setReg rd v := rfl

/-- Flags written and nothing else. -/
@[simp] theorem performWrites_flags (fs : List (Flag × Bool)) (s : State) :
    performWrites { regs := [], flags := fs } s = fs.foldl (fun s p => s.setFlag p.1 p.2) s := rfl

/-! ### serviceCommand and serviceIllegal -/

/-- Everything that a command can do (R336). -/
theorem serviceCommand_cases {rs1 rs2 : RegIdx} {f : U256 → U256 → Computed} {s s' : State}
    (h : serviceCommand rs1 rs2 f s = .next s') :
    (s.status.halted = true ∧ s' = refuseHalted s) ∨
    (∃ c, s.status.halted = false ∧ f (s.reg rs1) (s.reg rs2) = .error c ∧ s' = raiseFault c s) ∨
    (∃ w, s.status.halted = false ∧ f (s.reg rs1) (s.reg rs2) = .ok w ∧
      s' = portOut .ok 0 (performWrites w s)) := by
  unfold serviceCommand at h
  split at h
  · next hh => cases h; exact .inl ⟨hh, rfl⟩
  · next hh =>
    have hh : s.status.halted = false := by simpa using hh
    split at h
    · next c hc => cases h; exact .inr (.inl ⟨c, hh, hc, rfl⟩)
    · next w hw => cases h; exact .inr (.inr ⟨w, hh, hw, rfl⟩)

theorem serviceCommand_halted (rs1 rs2 : RegIdx) (f : U256 → U256 → Computed) {s : State}
    (h : s.status.halted = true) : serviceCommand rs1 rs2 f s = .next (refuseHalted s) := by
  simp [serviceCommand, h]

theorem serviceCommand_error {rs1 rs2 : RegIdx} {f : U256 → U256 → Computed} {s : State} {c : FaultCause}
    (h : s.status.halted = false) (hf : f (s.reg rs1) (s.reg rs2) = .error c) :
    serviceCommand rs1 rs2 f s = .next (raiseFault c s) := by
  simp [serviceCommand, h, hf]

theorem serviceCommand_ok {rs1 rs2 : RegIdx} {f : U256 → U256 → Computed} {s : State} {w : Writes}
    (h : s.status.halted = false) (hf : f (s.reg rs1) (s.reg rs2) = .ok w) :
    serviceCommand rs1 rs2 f s = .next (portOut .ok 0 (performWrites w s)) := by
  simp [serviceCommand, h, hf]

/-- A command that writes one register. -/
theorem serviceCommand_writesReg {rs1 rs2 rd : RegIdx} {f : U256 → U256 → Computed} {s : State} {v : U256}
    (h : s.status.halted = false) (hf : f (s.reg rs1) (s.reg rs2) = writesReg rd v) :
    serviceCommand rs1 rs2 f s = .next (portOut .ok 0 (s.setReg rd v)) :=
  serviceCommand_ok h hf

/-- A command that writes flags only. -/
theorem serviceCommand_writesFlags {rs1 rs2 : RegIdx} {f : U256 → U256 → Computed} {s : State}
    {fs : List (Flag × Bool)} (h : s.status.halted = false) (hf : f (s.reg rs1) (s.reg rs2) = writesFlags fs) :
    serviceCommand rs1 rs2 f s = .next (portOut .ok 0 (fs.foldl (fun s p => s.setFlag p.1 p.2) s)) :=
  serviceCommand_ok h hf

/-- Everything that an illegal word can do (R334). -/
theorem serviceIllegal_cases {s s' : State} (h : serviceIllegal s = .next s') :
    (s.status.halted = true ∧ s' = refuseHalted s) ∨
    (s.status.halted = false ∧ s' = raiseFault .illegalCommand s) := by
  unfold serviceIllegal at h
  split at h
  · next hh => cases h; exact .inl ⟨hh, rfl⟩
  · next hh => cases h; exact .inr ⟨by simpa using hh, rfl⟩

theorem serviceIllegal_running {s : State} (h : s.status.halted = false) :
    serviceIllegal s = .next (raiseFault .illegalCommand s) := by
  simp [serviceIllegal, h]

theorem serviceIllegal_halted {s : State} (h : s.status.halted = true) :
    serviceIllegal s = .next (refuseHalted s) := by
  simp [serviceIllegal, h]

/-! ### The port -/

theorem nextTransaction_inService {s : State} {t : Transaction} (h : s.inService = some t) :
    nextTransaction s = some (t, s) := by
  simp [nextTransaction, h]

theorem nextTransaction_request {s : State} {t : Transaction} {rest : List HostEvent} (h : s.inService = none)
    (hi : s.inbox = .request t :: rest) : nextTransaction s = some (t, portIn t rest s) := by
  simp [nextTransaction, h, hi]

/-- Everything that taking a transaction can do. -/
theorem nextTransaction_cases {s s' : State} {t : Transaction} (h : nextTransaction s = some (t, s')) :
    (s.inService = some t ∧ s' = s) ∨
    (∃ rest, s.inService = none ∧ s.inbox = .request t :: rest ∧ s' = portIn t rest s) := by
  unfold nextTransaction at h
  split at h
  · next hs => simp_all
  · next hs hi =>
    simp only [Option.some.injEq, Prod.mk.injEq] at h
    obtain ⟨rfl, rfl⟩ := h
    exact .inr ⟨_, hs, hi, rfl⟩
  · cases h
  · cases h

end Sys2Proof.Machine
end

