-- ==== Sys2Proof/Laws/PerInstr.lean ====
section
/-! SUPPORT. Statements made instruction by instruction. Family `LegalWord`: the command word that a well-formed command
encodes to is legal by R334 (for `illegal`, it is the illegal word itself). -/

namespace Sys2Proof.Laws.LegalWord

/-- What is said of an instruction. -/
def Statement (i : Instr) : Prop :=
  i.isCommand = true → i.wellFormed = true → ((∃ w, i = .illegal w) ↔ illegalWord (encodeCommand i) = true)

/-- R334's test on an encoded word, read from its fields. -/
theorem illegalWord_commandWord (o : BitVec 8) {op : CommandWord} (rd rd2 rs1 rs2 : RegIdx) (ho : op = o.setWidth 32) :
    illegalWord (commandWord op rd rd2 rs1 rs2) =
      (decide (o = 0 ∨ 0x0C#8 ≤ o) || decide (¬ o = 0x05#8 ∧ rd2 ≠ 0) ||
        decide ((o = 0x09#8 ∨ o = 0x0A#8) ∧ rd ≠ 0) || decide (o = 0x05#8 ∧ rd = rd2)) := by
  obtain ⟨f0, f1, f2, f3, f4, f5⟩ := commandWord_fields o rd rd2 rs1 rs2 ho
  have hz (r : RegIdx) : BitVec.ofFin r = 0#4 ↔ r = 0 := by revert r; decide
  have he (r q : RegIdx) : (BitVec.ofFin r : BitVec 4) = BitVec.ofFin q ↔ r = q := by revert r q; decide
  simp [illegalWord, f0, f1, f4, f5, hz, he]

/-- A class R3 word, with `rd2` 0, is legal. -/
theorem wordR3 (o : BitVec 8) {op : CommandWord} (rd rs1 rs2 : RegIdx) (ho : op = o.setWidth 32)
    (h : o ∈ [0x01#8, 0x02#8, 0x03#8, 0x04#8, 0x06#8, 0x07#8, 0x08#8, 0x0B#8]) :
    illegalWord (commandWord op rd 0 rs1 rs2) = false := by
  rw [illegalWord_commandWord o _ _ _ _ ho]
  simp only [List.mem_cons, List.not_mem_nil, or_false] at h
  rcases h with rfl | rfl | rfl | rfl | rfl | rfl | rfl | rfl <;> simp

/-- A class R2 word is legal. -/
theorem wordR2 (o : BitVec 8) {op : CommandWord} (rs1 rs2 : RegIdx) (ho : op = o.setWidth 32)
    (h : o ∈ [0x09#8, 0x0A#8]) : illegalWord (commandWord op 0 0 rs1 rs2) = false := by
  rw [illegalWord_commandWord o _ _ _ _ ho]
  simp only [List.mem_cons, List.not_mem_nil, or_false] at h
  rcases h with rfl | rfl <;> decide

/-- A class R4 word with two different destinations is legal. -/
theorem wordR4 (rd rd2 rs1 rs2 : RegIdx) (h : rd ≠ rd2) :
    illegalWord (commandWord 0x05 rd rd2 rs1 rs2) = false := by
  rw [illegalWord_commandWord 0x05#8 (op := 0x05) _ _ _ _ rfl]
  simp [h]

/-- An instruction whose word is legal, and which is no illegal word, meets the statement. -/
theorem of_legal {i : Instr} (hi : ∀ w, i ≠ .illegal w) (h : illegalWord (encodeCommand i) = false) : Statement i :=
  fun _ _ => by simp [hi, h]

theorem load (r : RegIdx) (e : Direction) (d : BitVec 256) : Statement (.load r e d) := by intro h; cases h
theorem store (r : RegIdx) (e : Direction) : Statement (.store r e) := by intro h; cases h
theorem exec (w : CommandWord) : Statement (.exec w) := by intro h; cases h
theorem rdstatus : Statement .rdstatus := by intro h; cases h
theorem add (rd rs1 rs2 : RegIdx) : Statement (.add rd rs1 rs2) :=
  of_legal (fun _ h => by cases h) (wordR3 0x01#8 _ _ _ rfl (by decide))
theorem sub (rd rs1 rs2 : RegIdx) : Statement (.sub rd rs1 rs2) :=
  of_legal (fun _ h => by cases h) (wordR3 0x02#8 _ _ _ rfl (by decide))
theorem mul (rd rs1 rs2 : RegIdx) : Statement (.mul rd rs1 rs2) :=
  of_legal (fun _ h => by cases h) (wordR3 0x03#8 _ _ _ rfl (by decide))
theorem div (rd rs1 rs2 : RegIdx) : Statement (.div rd rs1 rs2) :=
  of_legal (fun _ h => by cases h) (wordR3 0x04#8 _ _ _ rfl (by decide))
theorem divrem (rd rd2 rs1 rs2 : RegIdx) : Statement (.divrem rd rd2 rs1 rs2) := by
  intro hc h
  exact of_legal (fun _ h => by cases h) (wordR4 rd rd2 rs1 rs2 (by simpa [Instr.wellFormed] using h)) hc h
theorem shl (rd rs1 rs2 : RegIdx) : Statement (.shl rd rs1 rs2) :=
  of_legal (fun _ h => by cases h) (wordR3 0x06#8 _ _ _ rfl (by decide))
theorem shr (rd rs1 rs2 : RegIdx) : Statement (.shr rd rs1 rs2) :=
  of_legal (fun _ h => by cases h) (wordR3 0x07#8 _ _ _ rfl (by decide))
theorem or (rd rs1 rs2 : RegIdx) : Statement (.or rd rs1 rs2) :=
  of_legal (fun _ h => by cases h) (wordR3 0x08#8 _ _ _ rfl (by decide))
theorem cmp (rs1 rs2 : RegIdx) : Statement (.cmp rs1 rs2) :=
  of_legal (fun _ h => by cases h) (wordR2 0x09#8 _ _ rfl (by decide))
theorem bitat (rs1 rs2 : RegIdx) : Statement (.bitat rs1 rs2) :=
  of_legal (fun _ h => by cases h) (wordR2 0x0a#8 _ _ rfl (by decide))
theorem setbit (rd rs1 rs2 : RegIdx) : Statement (.setbit rd rs1 rs2) :=
  of_legal (fun _ h => by cases h) (wordR3 0x0b#8 _ _ _ rfl (by decide))
theorem illegal (w : CommandWord) : Statement (.illegal w) := by
  intro _ h; simpa [encodeCommand, Instr.wellFormed] using h
theorem mv (rd rs : RegIdx) : Statement (.mv rd rs) :=
  of_legal (fun _ h => by cases h) (wordR3 0x08#8 _ _ _ rfl (by decide))
theorem clr (rd : RegIdx) : Statement (.clr rd) :=
  of_legal (fun _ h => by cases h) (wordR3 0x02#8 _ _ _ rfl (by decide))

end Sys2Proof.Laws.LegalWord
end

