-- ==== Sys2Proof/Laws/Step.lean ====
section
/-! SUPPORT. What `exec` and `step` can do, said once. -/

namespace Sys2Proof.Machine

/-- Everything a step can do (R320, R734, R801): reset, wait, or service one transaction. -/
theorem step_cases {s s' : State} (h : step s = .next s') :
    (∃ rest, s.inbox = .reset :: rest ∧ s' = hostReset rest s) ∨
    (s' = s ∧ s.inbox = [] ∧ s.inService = none) ∨
    (∃ t s1, nextTransaction s = some (t, s1) ∧ exec (decodeTransaction t) s1 = .next s') := by
  unfold step at h
  split at h
  · next rest hi => cases h; exact .inl ⟨rest, hi, rfl⟩
  · next hi =>
    split at h
    · next hn => cases h; right; left; refine ⟨rfl, hi, ?_⟩; unfold nextTransaction at hn; split at hn <;> simp_all
    · next t s1 hn => exact .inr (.inr ⟨t, s1, hn, h⟩)
  · next t rest hi =>
    split at h
    · next hn => exfalso; unfold nextTransaction at hn; split at hn <;> simp_all
    · next t' s1 hn => exact .inr (.inr ⟨t', s1, hn, h⟩)

/-! ### The meaning of each instruction, over the shared operations -/

section
variable (s : State) (r rd rd2 rs rs1 rs2 : RegIdx)

theorem exec_add : exec (.add rd rs1 rs2) s = serviceCommand rs1 rs2 (computeAdd rd) s := rfl
theorem exec_sub : exec (.sub rd rs1 rs2) s = serviceCommand rs1 rs2 (computeSub rd) s := rfl
theorem exec_mul : exec (.mul rd rs1 rs2) s = serviceCommand rs1 rs2 (computeMul rd) s := rfl
theorem exec_div : exec (.div rd rs1 rs2) s = serviceCommand rs1 rs2 (computeDiv rd) s := rfl
theorem exec_shl : exec (.shl rd rs1 rs2) s = serviceCommand rs1 rs2 (computeShl rd) s := rfl
theorem exec_shr : exec (.shr rd rs1 rs2) s = serviceCommand rs1 rs2 (computeShr rd) s := rfl
theorem exec_or : exec (.or rd rs1 rs2) s = serviceCommand rs1 rs2 (computeOr rd) s := rfl
theorem exec_setbit : exec (.setbit rd rs1 rs2) s = serviceCommand rs1 rs2 (computeSetbit rd) s := rfl
theorem exec_cmp : exec (.cmp rs1 rs2) s = serviceCommand rs1 rs2 computeCmp s := rfl
theorem exec_bitat : exec (.bitat rs1 rs2) s = serviceCommand rs1 rs2 computeBitat s := rfl
theorem exec_mv : exec (.mv rd rs) s = serviceCommand rs rs (computeOr rd) s := rfl
theorem exec_clr : exec (.clr rd) s = serviceCommand rd rd (computeSub rd) s := rfl
theorem exec_illegal (w : CommandWord) : exec (.illegal w) s = serviceIllegal s := rfl
theorem exec_exec (w : CommandWord) : exec (.exec w) s = execExec w s := rfl
theorem exec_load (e : Direction) (d : BitVec 256) : exec (.load r e d) s = execLoad r e d s := rfl
theorem exec_store (e : Direction) :
    exec (.store r e) s = .next (portOut .ok (lanesOfBytes (pack e (s.reg r))) s) := rfl
theorem exec_rdstatus : exec .rdstatus s = .next (portOut .ok (s.status.toWord.setWidth 256) s) := rfl
theorem exec_divrem (h : rd ≠ rd2) :
    exec (.divrem rd rd2 rs1 rs2) s = serviceCommand rs1 rs2 (computeDivrem rd rd2) s := if_neg h
theorem exec_divrem_same : exec (.divrem rd rd rs1 rs2) s = serviceIllegal s := if_pos rfl

end

/-! ### What no instruction reads -/

/-- A response does not show which transaction was in service. -/
theorem portOut_drops_inService (c : ResponseCode) (d : BitVec 256) (o : Option Transaction) (s : State) :
    portOut c d { s with inService := o } = portOut c d s := rfl

/-- The writes of a command do not read what is in service. -/
theorem performWrites_inService (w : Writes) (o : Option Transaction) (s : State) :
    performWrites w { s with inService := o } = { performWrites w s with inService := o } := by
  have hr (ws : List (RegIdx × U256)) (s : State) :
      ws.foldl (fun s p => s.setReg p.1 p.2) { s with inService := o } =
        { ws.foldl (fun s p => s.setReg p.1 p.2) s with inService := o } := by
    induction ws generalizing s with
    | nil => rfl
    | cons p ws ih => exact ih (s.setReg p.1 p.2)
  have hf (fs : List (Flag × Bool)) (s : State) :
      fs.foldl (fun s p => s.setFlag p.1 p.2) { s with inService := o } =
        { fs.foldl (fun s p => s.setFlag p.1 p.2) s with inService := o } := by
    induction fs generalizing s with
    | nil => rfl
    | cons p fs ih => exact ih (s.setFlag p.1 p.2)
  unfold performWrites
  simp only [hr, hf]
  split <;> rfl

/-- A command does not read what is in service. -/
theorem serviceCommand_inService (rs1 rs2 : RegIdx) (f : U256 → U256 → Computed) (o : Option Transaction) (s : State) :
    serviceCommand rs1 rs2 f { s with inService := o } = serviceCommand rs1 rs2 f s := by
  have hreg (r : RegIdx) : State.reg { s with inService := o } r = s.reg r := rfl
  unfold serviceCommand
  simp only [hreg, performWrites_inService, portOut_drops_inService]
  rfl

theorem execDivrem_inService (rd rd2 rs1 rs2 : RegIdx) (o : Option Transaction) (s : State) :
    execDivrem rd rd2 rs1 rs2 { s with inService := o } = execDivrem rd rd2 rs1 rs2 s := by
  unfold execDivrem
  rw [serviceCommand_inService]
  rfl

/-- No instruction reads which transaction is in service: the port is empty after it either way. -/
theorem exec_inService (i : Instr) (o : Option Transaction) (s : State) :
    exec i { s with inService := o } = exec i s := by
  cases i with
  | load r e data => rfl
  | store r e => rfl
  | rdstatus => rfl
  | illegal w => rfl
  | add rd rs1 rs2 => exact serviceCommand_inService rs1 rs2 (computeAdd rd) o s
  | sub rd rs1 rs2 => exact serviceCommand_inService rs1 rs2 (computeSub rd) o s
  | mul rd rs1 rs2 => exact serviceCommand_inService rs1 rs2 (computeMul rd) o s
  | div rd rs1 rs2 => exact serviceCommand_inService rs1 rs2 (computeDiv rd) o s
  | divrem rd rd2 rs1 rs2 => exact execDivrem_inService rd rd2 rs1 rs2 o s
  | shl rd rs1 rs2 => exact serviceCommand_inService rs1 rs2 (computeShl rd) o s
  | shr rd rs1 rs2 => exact serviceCommand_inService rs1 rs2 (computeShr rd) o s
  | or rd rs1 rs2 => exact serviceCommand_inService rs1 rs2 (computeOr rd) o s
  | cmp rs1 rs2 => exact serviceCommand_inService rs1 rs2 computeCmp o s
  | bitat rs1 rs2 => exact serviceCommand_inService rs1 rs2 computeBitat o s
  | setbit rd rs1 rs2 => exact serviceCommand_inService rs1 rs2 (computeSetbit rd) o s
  | mv rd rs => exact serviceCommand_inService rs rs (computeOr rd) o s
  | clr rd => exact serviceCommand_inService rd rd (computeSub rd) o s
  | exec w =>
    rw [exec_exec, exec_exec]
    unfold execExec
    split <;> first | rfl | exact execDivrem_inService .. | exact serviceCommand_inService ..

/-! ### Everything an instruction can do -/

/-- Everything an instruction can do (R336, R400, R410, R420): a refusal while HALTED, a fault, or a completion with
some writes and an OK response. -/
def Completes (s s' : State) : Prop :=
  (s.status.halted = true ∧ s' = refuseHalted s) ∨
  (∃ c, s.status.halted = false ∧ s' = raiseFault c s) ∨
  (∃ w d, s' = portOut .ok d (performWrites w s))

theorem serviceCommand_completes {rs1 rs2 : RegIdx} {f : U256 → U256 → Computed} {s s' : State}
    (h : serviceCommand rs1 rs2 f s = .next s') : Completes s s' := by
  rcases serviceCommand_cases h with h | ⟨c, hh, -, h⟩ | ⟨w, -, -, h⟩
  · exact .inl h
  · exact .inr (.inl ⟨c, hh, h⟩)
  · exact .inr (.inr ⟨w, 0, h⟩)

theorem serviceIllegal_completes {s s' : State} (h : serviceIllegal s = .next s') : Completes s s' := by
  rcases serviceIllegal_cases h with h | ⟨hh, h⟩
  · exact .inl h
  · exact .inr (.inl ⟨_, hh, h⟩)

theorem execDivrem_completes {rd rd2 rs1 rs2 : RegIdx} {s s' : State} (h : execDivrem rd rd2 rs1 rs2 s = .next s') :
    Completes s s' := by
  unfold execDivrem at h
  split at h
  · exact serviceIllegal_completes h
  · exact serviceCommand_completes h

theorem execLoad_completes {r : RegIdx} {e : Direction} {d : BitVec 256} {s s' : State}
    (h : execLoad r e d s = .next s') : Completes s s' := by
  unfold execLoad at h
  split at h
  · next hh => cases h; exact .inl ⟨hh, rfl⟩
  · cases h; exact .inr (.inr ⟨{ regs := [(r, _)], flags := [] }, 0, rfl⟩)

theorem execExec_completes {w : CommandWord} {s s' : State} (h : execExec w s = .next s') : Completes s s' := by
  unfold execExec at h
  split at h
  all_goals first
    | exact execDivrem_completes h
    | exact serviceIllegal_completes h
    | (unfold execAdd at h; exact serviceCommand_completes h)
    | (unfold execSub at h; exact serviceCommand_completes h)
    | (unfold execMul at h; exact serviceCommand_completes h)
    | (unfold execDiv at h; exact serviceCommand_completes h)
    | (unfold execShl at h; exact serviceCommand_completes h)
    | (unfold execShr at h; exact serviceCommand_completes h)
    | (unfold execOr at h; exact serviceCommand_completes h)
    | (unfold execCmp at h; exact serviceCommand_completes h)
    | (unfold execBitat at h; exact serviceCommand_completes h)
    | (unfold execSetbit at h; exact serviceCommand_completes h)
    | (unfold execMv at h; exact serviceCommand_completes h)
    | (unfold execClr at h; exact serviceCommand_completes h)

/-- Everything `exec` can do, for every instruction. -/
theorem exec_completes {i : Instr} {s s' : State} (h : exec i s = .next s') : Completes s s' := by
  cases i with
  | load r e data => exact execLoad_completes h
  | store r e => cases h; exact .inr (.inr ⟨{ regs := [], flags := [] }, _, rfl⟩)
  | rdstatus => cases h; exact .inr (.inr ⟨{ regs := [], flags := [] }, _, rfl⟩)
  | exec w => exact execExec_completes h
  | add rd rs1 rs2 => exact serviceCommand_completes (f := computeAdd rd) h
  | sub rd rs1 rs2 => exact serviceCommand_completes (f := computeSub rd) h
  | mul rd rs1 rs2 => exact serviceCommand_completes (f := computeMul rd) h
  | div rd rs1 rs2 => exact serviceCommand_completes (f := computeDiv rd) h
  | shl rd rs1 rs2 => exact serviceCommand_completes (f := computeShl rd) h
  | shr rd rs1 rs2 => exact serviceCommand_completes (f := computeShr rd) h
  | or rd rs1 rs2 => exact serviceCommand_completes (f := computeOr rd) h
  | setbit rd rs1 rs2 => exact serviceCommand_completes (f := computeSetbit rd) h
  | cmp rs1 rs2 => exact serviceCommand_completes (f := computeCmp) h
  | bitat rs1 rs2 => exact serviceCommand_completes (f := computeBitat) h
  | divrem rd rd2 rs1 rs2 => exact execDivrem_completes h
  | mv rd rs => exact serviceCommand_completes (f := computeOr rd) h
  | clr rd => exact serviceCommand_completes (f := computeSub rd) h
  | illegal w => exact serviceIllegal_completes h

end Sys2Proof.Machine
end

