-- ==== Sys2Proof/Laws/Run.lean ====
section
/-! SUPPORT. Runs of several steps: their unfolding, their composition, and the induction packaged once. -/

namespace Sys2Proof.Machine

/-- `k` steps of the block: `Host.Core.run` of the core, with the state's own type. -/
abbrev runSteps (k : Nat) (s : State) : Host.Outcome State Fault Refusal := Host.Core.run Sys2Proof.core k s

theorem runSteps_zero (s : State) : runSteps 0 s = .next s := rfl

theorem runSteps_succ_next {s s' : State} (k : Nat) (h : step s = .next s') : runSteps (k + 1) s = runSteps k s' := by
  show Host.Core.run Sys2Proof.core (k + 1) s = _
  have : Sys2Proof.core.step s = .next s' := h
  simp only [Host.Core.run, this]

/-- A run's first step and the rest. -/
theorem runSteps_succ_cases {k : Nat} {s s' : State} (h : runSteps (k + 1) s = .next s') :
    ∃ s1, step s = .next s1 ∧ runSteps k s1 = .next s' := by
  cases hs : step s with
  | next s1 => exact ⟨s1, rfl, by rwa [runSteps_succ_next k hs] at h⟩
  | fault r => exact nomatch r
  | refused r =>
    have e : Sys2Proof.core.step s = .refused r := hs
    have h' : Host.Core.run Sys2Proof.core (k + 1) s = .next s' := h
    simp only [Host.Core.run, e] at h'
    cases h'

/-- A run of `m + k` steps is a run of `m` steps and then one of `k`. -/
theorem runSteps_add {m k : Nat} {s s1 : State} (h : runSteps m s = .next s1) :
    runSteps (m + k) s = runSteps k s1 := by
  induction m generalizing s with
  | zero => cases h; rw [Nat.zero_add]
  | succ m ih =>
    obtain ⟨s2, h1, h2⟩ := runSteps_succ_cases h
    rw [Nat.add_right_comm, runSteps_succ_next _ h1]
    exact ih h2

/-- What every step keeps, every run keeps. -/
theorem runSteps_keeps {P : State → Prop} (hstep : ∀ s s', P s → step s = .next s' → P s') {k : Nat} {s s' : State}
    (hs : P s) (h : runSteps k s = .next s') : P s' := by
  induction k generalizing s with
  | zero => cases h; exact hs
  | succ k ih =>
    obtain ⟨s1, h1, h2⟩ := runSteps_succ_cases h
    exact ih (hstep s s1 hs h1) h2

theorem runProgram_eq (ts : List Transaction) (s : State) :
    runProgram ts s = runSteps ts.length (s.launch ts) := rfl

end Sys2Proof.Machine
end

