-- ==== Sys2Proof/Tests/Slice0.lean ====
section
/-! SUPPORT. The model's own tests: ill-formed terms, words written out from the encodings, one-step tests whose results
come from spec/95_test_vectors.md, and a witness for the hypotheses of every statement. -/

namespace Sys2Proof.Tests

open Sys2Proof.Machine Sys2Proof.Claims

/-! ### Helpers -/

/-- The operands of the vectors: `x1 = a`, `x2 = b`, every other register 0, STATUS 0. -/
def operands (a b : U256) : State := (State.reset.setReg 1 a).setReg 2 b

/-- The state that an instruction leads to. -/
def after (i : Instr) (s : State) : Option State :=
  match exec i s with
  | .next s'   => some s'
  | .fault _   => none
  | .refused _ => none

/-- The state after the step that runs the command word `w`. -/
def afterWord (w : Nat) (s : State) : Option State :=
  match step (s.withFetchWord 32 w) with
  | .next s'   => some s'
  | .fault _   => none
  | .refused _ => none

/-- The register `r` after the command word `w`. -/
def regAfter (w : Nat) (s : State) (r : RegIdx) : Option U256 := (afterWord w s).map fun s' => s'.reg r

/-- STATUS after the command word `w`. -/
def statusAfter (w : Nat) (s : State) : Option (BitVec 32) := (afterWord w s).map fun s' => s'.status.toWord

/-- The first response in a state's record. -/
def answer (s : Option State) : Option Response := s.bind fun s' => s'.responses.head?

/-- `MAX` (R10). -/
abbrev top : U256 := BitVec.allOnes 256

/-- The core after ADD_OVERFLOW: STATUS `0x101`, as in the vectors F8 to F12. -/
def haltedState : State :=
  { operands 1 2 with status := { Status.reset with halted := true, fault := some .addOverflow } }

/-- STATUS `0x18` (GT and BIT), as in the vector C7. -/
def flaggedState (a b : U256) : State :=
  { operands a b with status := { Status.reset with gt := true, bit := true } }

/-- The EXEC of a command word. -/
def execOf (w : CommandWord) : Transaction := { header := 2, data := 0, cmd := w }

/-- The bytes `00 01 … 1f` (vector L1) on the data field: `B[k]` in lane `k`. -/
def countingBytes : BitVec 256 := 0x1f1e1d1c1b1a191817161514131211100f0e0d0c0b0a09080706050403020100

/-! ### Well-formedness: R332, R334 -/

theorem test_wellFormed_refuses_divrem_into_one_register : (Instr.divrem 2 2 1 3).wellFormed = false := by decide
theorem test_wellFormed_refuses_a_legal_word_as_illegal : (Instr.illegal 0x00021301).wellFormed = false := by decide
theorem test_wellFormed_accepts_divrem_and_an_illegal_word :
    (Instr.divrem 4 5 1 2).wellFormed = true ∧ (Instr.illegal 0x00221205).wellFormed = true := by decide

/-! ### Decoding: words written out field by field. `reserved, rd2, rs2, rs1, rd, opcode` (R330). -/

theorem test_decode_add : decodeCommand 0b00000000_0000_0010_0001_0011_00000001#32 = .add 3 1 2 := by decide
theorem test_decode_sub : decodeCommand 0b00000000_0000_0010_0001_0011_00000010#32 = .sub 3 1 2 := by decide
theorem test_decode_mul : decodeCommand 0b00000000_0000_0010_0001_0011_00000011#32 = .mul 3 1 2 := by decide
theorem test_decode_div : decodeCommand 0b00000000_0000_0010_0001_0011_00000100#32 = .div 3 1 2 := by decide
theorem test_decode_divrem : decodeCommand 0b00000000_0101_0010_0001_0100_00000101#32 = .divrem 4 5 1 2 := by decide
theorem test_decode_shl : decodeCommand 0b00000000_0000_0010_0001_0011_00000110#32 = .shl 3 1 2 := by decide
theorem test_decode_shr : decodeCommand 0b00000000_0000_0010_0001_0011_00000111#32 = .shr 3 1 2 := by decide
theorem test_decode_or : decodeCommand 0b00000000_0000_0010_0001_0011_00001000#32 = .or 3 1 2 := by decide
theorem test_decode_cmp : decodeCommand 0b00000000_0000_0010_0001_0000_00001001#32 = .cmp 1 2 := by decide
theorem test_decode_bitat : decodeCommand 0b00000000_0000_0010_0001_0000_00001010#32 = .bitat 1 2 := by decide
theorem test_decode_setbit : decodeCommand 0b00000000_0000_0010_0001_0011_00001011#32 = .setbit 3 1 2 := by decide

/-- `MV x6, x5` and `CLR x4` (R341; vectors O6 and B10): the words of OR and SUB. -/
theorem test_decode_mv_and_clr :
    decodeCommand 0b00000000_0000_0101_0101_0110_00001000#32 = (Instr.mv 6 5).expand ∧
    decodeCommand 0b00000000_0000_0100_0100_0100_00000010#32 = (Instr.clr 4).expand := by decide

/-- The vectors E1 to E8, each with its condition of R334. -/
theorem test_decode_illegal_words :
    decodeWord 0x00000000 = .error .unknownOpcode ∧ decodeWord 0x0000000C = .error .unknownOpcode ∧
    decodeWord 0x000000FF = .error .unknownOpcode ∧ decodeWord 0x01021301 = .error .reservedBits ∧
    decodeWord 0x00121301 = .error .unusedField ∧ decodeWord 0x00021109 = .error .unusedField ∧
    decodeWord 0x00121009 = .error .unusedField ∧ decodeWord 0x00221205 = .error .sameDestination := by decide

/-- The vectors E13 and E14: `rd2 = 0` names `x0` in DIVREM. -/
theorem test_decode_register_zero :
    decodeCommand 0x00012305 = .divrem 3 0 2 1 ∧ decodeCommand 0x0000FF01 = .add 15 15 0 := by decide

/-- The headers, `e, reg, kind` (R300): a Little LOAD of `x15`, a Big STORE of `x2`, EXEC and RDSTATUS with every
ignored field at 1. -/
theorem test_decode_headers :
    decodeTransaction { header := 0b1_1111_00#7, data := 7, cmd := 9 } = .load 15 .little 7 ∧
    decodeTransaction { header := 0b0_0010_01#7, data := 7, cmd := 9 } = .store 2 .big ∧
    decodeTransaction { header := 0b1_1111_10#7, data := 7, cmd := 0x00021301 } = .exec 0x00021301 ∧
    decodeTransaction { header := 0b1_1111_11#7, data := 7, cmd := 9 } = .rdstatus := by decide

/-- The opcode table's rows: a header of 7 bits in one byte, a command word of 32 bits, and no other length (R337). -/
theorem test_decodeTableWord :
    decodeTableWord 8 0b1_0011_00 = some (.load 3 .little 0) ∧ decodeTableWord 8 0b10 = some (.exec 0) ∧
    decodeTableWord 32 0x00521405 = some (.divrem 4 5 1 2) ∧ decodeTableWord 32 0 = some (.illegal 0) ∧
    decodeTableWord 16 0 = none ∧ decodeTableWord 8 0x80 = none := by decide

/-- R340 to R342: the assembler refuses what is no text form. -/
theorem test_assemble_refuses : assemble "ADD x3, x1, x16".toList = none ∧ assemble "NOP".toList = none := by decide

/-- R342, R340: a host transaction, and a mnemonic in small letters. -/
theorem test_assemble_accepts :
    assemble "LOAD.LE x3, 128".toList = some (.load 3 .little 128) ∧
    assemble "mv x1, x2".toList = some (.mv 1 2) ∧ assemble "STORE.BE x4".toList = some (.store 4 .big) := by decide

/-! ### One step of each instruction. Names in brackets are rows of spec/95_test_vectors.md. -/

/-- [L1], [L2] -/
theorem test_load :
    (after (.load 1 .big countingBytes) State.reset).map (fun s => s.reg 1)
      = some 0x000102030405060708090a0b0c0d0e0f101112131415161718191a1b1c1d1e1f ∧
    (after (.load 1 .little countingBytes) State.reset).map (fun s => s.reg 1)
      = some 0x1f1e1d1c1b1a191817161514131211100f0e0d0c0b0a09080706050403020100 := by decide

/-- [F8]: a LOAD while HALTED -/
theorem test_load_halted :
    (after (.load 3 .little 5) haltedState).map (fun s => (s.reg 3, s.status.toWord)) = some (0, 0x101) ∧
    answer (after (.load 3 .little 5) haltedState) = some { code := .halted, rdata := 0 } := by decide

/-- [L6], [L7]: `0x0102`; [F10]: serviced while HALTED too -/
theorem test_store :
    answer (after (.store 2 .little) (operands 0 0x0102)) = some { code := .ok, rdata := 0x0102 } ∧
    answer (after (.store 2 .big) (operands 0 0x0102)) =
      some { code := .ok, rdata := BitVec.ofNat 256 (0x0201 * 2 ^ 240) } ∧
    answer (after (.store 1 .little) haltedState) = some { code := .ok, rdata := 1 } := by decide

/-- [L9], [F11] -/
theorem test_rdstatus :
    answer (after .rdstatus State.reset) = some { code := .ok, rdata := 0 } ∧
    answer (after .rdstatus haltedState) = some { code := .ok, rdata := 0x101 } := by decide

/-- [E9] and [F9]: an EXEC runs its command, and is refused while HALTED whatever its word -/
theorem test_exec :
    (after (.exec 0x00000002) (State.reset.setReg 0 9)).map (fun s => s.reg 0) = some 0 ∧
    answer (after (.exec 0x00000000) haltedState) = some { code := .halted, rdata := 0 } := by decide

/-- [A4], [A9], [A10] -/
theorem test_add :
    regAfter 0x00021301 (operands (BitVec.ofNat 256 (2 ^ 128 - 1)) 1) 3 = some (BitVec.ofNat 256 (2 ^ 128)) ∧
    regAfter 0x00021301 (operands (BitVec.ofNat 256 (5 * 2 ^ 128 + (2 ^ 128 - 1)))
      (BitVec.ofNat 256 (7 * 2 ^ 128 + (2 ^ 128 - 1)))) 3 = some (BitVec.ofNat 256 (13 * 2 ^ 128 + (2 ^ 128 - 2))) ∧
    regAfter 0x00021101 (operands 7 5) 1 = some 12 := by decide

/-- [A2], [A6], [F7] -/
theorem test_add_overflow :
    statusAfter 0x00021301 (operands top 1) = some 0x101 ∧
    statusAfter 0x00021301 (operands (BitVec.ofNat 256 ((2 ^ 128 - 1) * 2 ^ 128 + 1)) (BitVec.ofNat 256 (2 ^ 128 - 1)))
      = some 0x101 ∧
    statusAfter 0x00021301 { operands top 1 with status := { Status.reset with gt := true } } = some 0x109 := by decide

/-- [B4], [B7] -/
theorem test_sub :
    regAfter 0x00021302 (operands (BitVec.ofNat 256 (2 ^ 128)) 1) 3 = some (BitVec.ofNat 256 (2 ^ 128 - 1)) ∧
    regAfter 0x00021302 (operands (BitVec.ofNat 256 (5 * 2 ^ 128 + 3)) (BitVec.ofNat 256 (2 * 2 ^ 128 + 7))) 3
      = some (BitVec.ofNat 256 (2 * 2 ^ 128 + (2 ^ 128 - 4))) := by decide

/-- [B3], [B8] -/
theorem test_sub_overflow :
    statusAfter 0x00021302 (operands 1 top) = some 0x201 ∧
    statusAfter 0x00021302 (operands (BitVec.ofNat 256 (5 * 2 ^ 128 + 3)) (BitVec.ofNat 256 (5 * 2 ^ 128 + 7)))
      = some 0x201 := by decide

/-- [M6], [M10], [M15] -/
theorem test_mul :
    regAfter 0x00021303 (operands (BitVec.ofNat 256 (2 ^ 128 + 1)) 2) 3 = some (BitVec.ofNat 256 (2 * 2 ^ 128 + 2)) ∧
    regAfter 0x00021303 (operands (BitVec.ofNat 256 (2 ^ 128 - 1)) (BitVec.ofNat 256 (2 ^ 128 + 1))) 3 = some top ∧
    regAfter 0x00021303 (operands 1000000000 999999999) 3 = some 999999999000000000 := by decide

/-- [M8], [M9] -/
theorem test_mul_overflow :
    statusAfter 0x00021303 (operands (BitVec.ofNat 256 (2 ^ 128)) (BitVec.ofNat 256 (2 ^ 128))) = some 0x301 ∧
    statusAfter 0x00021303 (operands (BitVec.ofNat 256 (2 ^ 127)) (BitVec.ofNat 256 (2 * 2 ^ 128))) = some 0x301 := by
  decide

/-- [D1], the loop; [D2] -/
theorem test_div :
    regAfter 0x00021304 (operands 10000000 2) 3 = some 5000000 ∧
    statusAfter 0x00021304 (operands 7 0) = some 0x401 := by decide +kernel

/-- [D3], the fast path; [D8], the loop; [D15], destinations that are sources -/
theorem test_divrem :
    (afterWord 0x00421305 (operands 5 7)).map (fun s => (s.reg 3, s.reg 4)) = some (0, 5) ∧
    (afterWord 0x00421305 (operands top (BitVec.ofNat 256 (2 ^ 255 + 2)))).map (fun s => (s.reg 3, s.reg 4))
      = some (1, BitVec.ofNat 256 (2 ^ 255 - 3)) ∧
    (afterWord 0x00221105 (operands 100 7)).map (fun s => (s.reg 1, s.reg 2)) = some (14, 2) := by decide +kernel

/-- [D16]: `rd = rd2`; [F4]: a zero divisor writes neither destination -/
theorem test_divrem_faults :
    statusAfter 0x00231205 (operands 100 7) = some 0x601 ∧
    (afterWord 0x00421305 (operands 7 0)).map (fun s => (s.reg 3, s.reg 4, s.status.toWord)) = some (0, 0, 0x401) := by
  decide

/-- [H5], [H9] -/
theorem test_shl :
    regAfter 0x00021306 (operands (BitVec.ofNat 256 ((2 ^ 127 + 1) * 2 ^ 128 + (2 ^ 127 + 1))) 129) 3
      = some (BitVec.ofNat 256 (2 * 2 ^ 128)) ∧
    regAfter 0x00021306 (operands top top) 3 = some 0 := by decide

/-- [H2], [H4] -/
theorem test_shr :
    regAfter 0x00021307 (operands (BitVec.ofNat 256 ((2 ^ 127 + 1) * 2 ^ 128 + (2 ^ 127 + 1))) 1) 3
      = some (BitVec.ofNat 256 (2 ^ 126 * 2 ^ 128 + (2 ^ 127 + 2 ^ 126))) ∧
    regAfter 0x00021307 (operands (BitVec.ofNat 256 ((2 ^ 127 + 1) * 2 ^ 128 + (2 ^ 127 + 1))) 128) 3
      = some (BitVec.ofNat 256 (2 ^ 127 + 1)) := by decide

/-- [O1], [O4] -/
theorem test_or :
    regAfter 0x00021308 (operands (BitVec.ofNat 256 (2 ^ 128)) 1) 3 = some (BitVec.ofNat 256 (2 ^ 128 + 1)) ∧
    regAfter 0x00021308 (operands 0xf0 0x0f) 3 = some 0xff := by decide

/-- [C3], [C4], [C7] -/
theorem test_cmp :
    statusAfter 0x00021009 (operands (BitVec.ofNat 256 (2 ^ 128)) (BitVec.ofNat 256 (2 ^ 128 - 1))) = some 8 ∧
    statusAfter 0x00021009 (operands (BitVec.ofNat 256 (5 * 2 ^ 128 + 3)) (BitVec.ofNat 256 (5 * 2 ^ 128 + 7)))
      = some 2 ∧
    statusAfter 0x00021009 (flaggedState 1 2) = some 0x12 := by decide

/-- [X4], [X5], [X7] -/
theorem test_bitat :
    statusAfter 0x0002100A (operands (BitVec.ofNat 256 ((2 ^ 127 + 1) * 2 ^ 128 + (2 ^ 127 + 1))) 128) = some 0x10 ∧
    statusAfter 0x0002100A (operands (BitVec.ofNat 256 ((2 ^ 127 + 1) * 2 ^ 128 + (2 ^ 127 + 1))) 129) = some 0 ∧
    statusAfter 0x0002100A (operands top 256) = some 0x501 := by decide

/-- [X12], [X14], [X15] -/
theorem test_setbit :
    regAfter 0x0002130B (operands 0 255) 3 = some (BitVec.ofNat 256 (2 ^ 255)) ∧
    statusAfter 0x0002130B (operands 0 256) = some 0x501 ∧ regAfter 0x0001130B (operands 5 0) 3 = some 37 := by decide

/-- [E1], [F6]: an illegal word -/
theorem test_illegal :
    statusAfter 0x00000000 State.reset = some 0x601 ∧
    answer (afterWord 0x0B0B0B0B State.reset) = some { code := .faulted, rdata := 0 } := by decide

/-- [O6] -/
theorem test_mv : (after (.mv 6 1) (operands 77 0)).map (fun s => (s.reg 6, s.reg 1)) = some (77, 77) := by decide

/-- [B10] -/
theorem test_clr : (after (.clr 1) (operands top 0)).map (fun s => (s.reg 1, s.status.toWord)) = some (0, 0) := by decide

/-- [F12]: reset -/
theorem test_reset_event :
    (match step { haltedState with inbox := [.reset] } with
      | .next s    => some (s.reg 1, s.status.toWord)
      | .fault _   => none
      | .refused _ => none) = some (0, 0) := by decide

/-! ### Witnesses: a concrete case that meets the hypotheses of each statement, at the boundary of each clause -/

/-- A core that is not halted, in a state that no reset leaves: the one hypothesis of the statements about OR, CMP, SHL,
SHR, MV, CLR and illegal words. -/
theorem witness_running : (flaggedState top 255).status.halted = false := by decide

theorem witness_ResetEventGivesTheResetState :
    { haltedState with inService := some (execOf 0), inbox := [.reset, .request (execOf 0)] }.inbox =
      .reset :: [HostEvent.request (execOf 0)] := rfl

/-- The two hypotheses: an empty port with a transaction to come, and a transaction in service. -/
theorem witness_StepServicesOneTransaction :
    (let s := { operands 1 2 with inbox := [.request (execOf 0x00021301)] }
     s.inService = none ∧ s.inbox = .request (execOf 0x00021301) :: []) ∧
    (let s := { operands 1 2 with inService := some (execOf 0x00021301), inbox := [.request (execOf 0)] }
     s.inService = some (execOf 0x00021301) ∧ ∀ rest, s.inbox ≠ .reset :: rest) :=
  ⟨⟨rfl, rfl⟩, rfl, fun _ h => by cases h⟩

theorem witness_StepRunsTheEncodedInstruction :
    (Instr.divrem 4 5 1 2).wellFormed = true ∧ (operands 1 2).inService = none ∧
    { operands 1 2 with inbox := [.request (encode (.divrem 4 5 1 2))] }.inbox =
      .request (encode (.divrem 4 5 1 2)) :: [] := ⟨by decide, rfl, rfl⟩

theorem witness_IdleCoreKeepsItsState : haltedState.inService = none ∧ haltedState.inbox = [] := ⟨rfl, rfl⟩

theorem witness_DecodeOfEncodeIsTheInstruction :
    (Instr.illegal 0x00021109).wellFormed = true ∧ (Instr.mv 15 15).wellFormed = true ∧
    (Instr.load 15 .little top).isCommand = false ∧ (Instr.exec 0x00221205).isCommand = false := by decide

/-- Each condition of R334 alone, and beside it a word that misses it by one. -/
theorem witness_IllegalWordsRaiseIllegalCommand :
    (illegalNumber 0x00000000 ∧ illegalNumber 0x0000000C ∧ illegalNumber 0x01021301 ∧ illegalNumber 0x00121301 ∧
      illegalNumber 0x00021109 ∧ illegalNumber 0x0012100A ∧ illegalNumber 0x00221205) ∧
    ¬ illegalNumber 0x0000000B ∧ ¬ illegalNumber 0x00FFF005 ∧ ¬ illegalNumber 0x00121205 := by
  simp [illegalNumber]

/-- Two transactions of each kind that differ in every field the kind ignores, and a state with nothing in service. -/
theorem witness_IgnoredFieldsHaveNoEffect :
    agreeOnReadFields { header := 0b1_1111_00, data := 7, cmd := 0 } { header := 0b1_1111_00, data := 7, cmd := 9 } ∧
    agreeOnReadFields { header := 0b1_1111_01, data := 0, cmd := 0 } { header := 0b1_1111_01, data := 7, cmd := 9 } ∧
    agreeOnReadFields { header := 0b0_0000_10, data := 0, cmd := 9 } { header := 0b1_1111_10, data := 7, cmd := 9 } ∧
    agreeOnReadFields { header := 0b0_0000_11, data := 0, cmd := 0 } { header := 0b1_1111_11, data := 7, cmd := 9 } ∧
    (operands 1 2).inService = none := by
  unfold agreeOnReadFields; decide

theorem witness_LoadWritesTheValueOfItsBytes :
    (operands 1 2).status.halted = false ∧ haltedState.status.halted = true := by decide

/-- 32 bytes that no reversal leaves alone. -/
theorem witness_PackingRoundTrips : (bytesOfLanes countingBytes).length = 32 := by decide

theorem witness_MixedDirectionsReverseTheBytes :
    (bytesOfLanes countingBytes).length = 32 ∧
    (bytesOfLanes countingBytes).reverse ≠ bytesOfLanes countingBytes := by decide

/-- The vector L5, the empty input and the full one. -/
theorem witness_ShortLittleEndianInputIsZeroFilled :
    [0x4a#8, 0x01#8].length ≤ 32 ∧ ([] : List Byte).length ≤ 32 ∧ (bytesOfLanes countingBytes).length ≤ 32 := by decide

/-- BitatReadsTheIndexedBit and SetbitSetsTheIndexedBit: the indexes 255 and 256. -/
theorem witness_bit_index :
    (operands 1 255).status.halted = false ∧ ((operands 1 255).reg 2).toNat < 256 ∧
    256 ≤ ((operands 1 256).reg 2).toNat := by decide

theorem witness_SetbitThenBitatReadsOne :
    (operands 1 255).status.halted = false ∧ (2 : RegIdx) ≠ 1 ∧ ((operands 1 255).reg 2).toNat < 256 ∧
    256 ≤ ((operands 1 256).reg 2).toNat := by decide

/-- The sums `2^256 − 1` and `2^256`. -/
theorem witness_AddWritesTheTrueSum :
    (operands top 0).status.halted = false ∧ ((operands top 0).reg 1).toNat + ((operands top 0).reg 2).toNat < 2 ^ 256 ∧
    2 ^ 256 ≤ ((operands top 1).reg 1).toNat + ((operands top 1).reg 2).toNat := by decide

/-- Equal operands, and a minuend one smaller. -/
theorem witness_SubWritesTheTrueDifference :
    (operands 5 5).status.halted = false ∧ ((operands 5 5).reg 2).toNat ≤ ((operands 5 5).reg 1).toNat ∧
    ((operands 4 5).reg 1).toNat < ((operands 4 5).reg 2).toNat := by decide

/-- Equal values, and a minuend one smaller. -/
theorem witness_SubDefensiveCheckNeverFires : (5 : U256).toNat ≤ (5 : U256).toNat ∧ (4 : U256).toNat < (5 : U256).toNat := by
  decide

/-- The products `2^256 − 1` and `2^256`. -/
theorem witness_MulWritesTheExactProduct :
    (let s := operands (BitVec.ofNat 256 (2 ^ 128 - 1)) (BitVec.ofNat 256 (2 ^ 128 + 1))
     s.status.halted = false ∧ (s.reg 1).toNat * (s.reg 2).toNat < 2 ^ 256) ∧
    (let s := operands (BitVec.ofNat 256 (2 ^ 127)) (BitVec.ofNat 256 (2 ^ 129))
     s.status.halted = false ∧ 2 ^ 256 ≤ (s.reg 1).toNat * (s.reg 2).toNat) := by decide

/-- The divisors 0 and 1. -/
theorem witness_DivisionEngineIsExact : (0 : U256).toNat = 0 ∧ (1 : U256).toNat ≠ 0 := by decide

theorem witness_DivisionLoopKeepsItsInvariant : (3 : U256).toNat ≠ 0 ∧ 0 ≤ 256 ∧ 256 ≤ 256 := by decide

theorem witness_DivWritesTheQuotient :
    (operands 7 1).status.halted = false ∧ ((operands 7 1).reg 2).toNat ≠ 0 ∧ ((operands 7 0).reg 2).toNat = 0 := by
  decide

theorem witness_DivremWritesQuotientAndRemainder :
    (operands 7 1).status.halted = false ∧ (3 : RegIdx) ≠ 4 ∧ ((operands 7 1).reg 2).toNat ≠ 0 ∧
    ((operands 7 0).reg 2).toNat = 0 ∧ (4 : RegIdx) = 4 := by decide

theorem witness_DivremMulAddGivesTheDividend :
    (operands top 3).status.halted = false ∧ ((operands top 3).reg 2).toNat ≠ 0 ∧
    (3 : RegIdx) ≠ 4 ∧ (3 : RegIdx) ≠ 2 ∧ (4 : RegIdx) ≠ 2 ∧ (4 : RegIdx) ≠ 5 := by decide

/-- ShlMultipliesByAPowerOfTwo and ShrDividesByAPowerOfTwo: the counts 255 and 256. -/
theorem witness_shift_count :
    (operands 1 255).status.halted = false ∧ ((operands 1 255).reg 2).toNat < 256 ∧
    256 ≤ ((operands 1 256).reg 2).toNat := by decide

/-- The vectors H12, H13 and H17, and the counts 0, 255 and 256. -/
theorem witness_ShiftsUndoEachOtherExactlyThen :
    ((255 : U256).toNat < 256 ∧ shiftRight (shiftLeft 1 255) 255 = 1 ∧ shiftRight (shiftLeft 2 255) 255 ≠ 2) ∧
    (let v := BitVec.ofNat 256 (2 ^ 128)
     (128 : U256).toNat < 256 ∧ shiftLeft (shiftRight v 128) 128 = v) ∧
    (0 : U256).toNat = 0 ∧ 256 ≤ (256 : U256).toNat := by decide

/-- A precise fault that leaves the flags, from a state with flags set. -/
theorem witness_FaultsArePrecise :
    (flaggedState top 1).status.halted = false ∧
    ∃ s', exec (.add 3 1 2) (flaggedState top 1) = .next s' ∧ s'.status.halted = true := ⟨by decide, _, rfl, by decide⟩

/-- Each row of R700's table, at the first value that faults. -/
theorem witness_OnlyTheListedFaultsAreRaised_faults :
    (operands top 1).status.halted = false ∧
    raises (.add 3 1 2) (operands top 1) .addOverflow ∧ raises (.sub 3 1 2) (operands 0 1) .subOverflow ∧
    raises (.mul 3 1 2) (operands (BitVec.ofNat 256 (2 ^ 128)) (BitVec.ofNat 256 (2 ^ 128))) .mulOverflow ∧
    raises (.div 3 1 2) (operands 7 0) .divByZero ∧ raises (.divrem 3 4 1 2) (operands 7 0) .divByZero ∧
    raises (.divrem 3 3 1 2) (operands 7 0) .illegalCommand ∧ raises (.bitat 1 2) (operands 7 256) .badIndex ∧
    raises (.setbit 3 1 2) (operands 7 256) .badIndex ∧ raises (.exec 0) (operands 7 0) .illegalCommand := by
  refine ⟨by decide, ?_, ?_, ?_, ?_, ?_, ?_, ?_, ?_, trivial⟩ <;> simp only [raises, raisesOf, Instr.expand] <;> decide

/-- No fault: the last sum that fits, and an instruction that has no fault. -/
theorem witness_OnlyTheListedFaultsAreRaised_none :
    (∀ c, ¬ raises (.add 3 1 2) (operands top 0) c) ∧ ∀ c, ¬ raises (.shl 3 1 2) (operands top top) c := by
  constructor <;> intro c <;> cases c <;> (simp [raises, raisesOf, Instr.expand]; try decide)

theorem witness_HaltedCoreRefusesLoadAndExec :
    haltedState.status.halted = true ∧ (Instr.clr 1).isCommand = true ∧ (Instr.illegal 0).isCommand = true := by decide

theorem witness_OnlyResetLeavesHalted :
    haltedState.status.halted = true ∧ { haltedState with inbox := [.reset] }.inbox = .reset :: [] := ⟨rfl, rfl⟩

/-- An OK transaction, then an ADD that overflows. -/
theorem witness_FaultingRunKeepsTheStateBeforeTheFault :
    ∃ s1 s2, runProgram [execOf 0x00021308] (operands top 1) = .next s1 ∧ s1.status.halted = false ∧
      runProgram ([execOf 0x00021308] ++ [execOf 0x00021301]) (operands top 1) = .next s2 ∧ s2.status.halted = true :=
  ⟨_, _, rfl, by decide, rfl, by decide⟩

theorem witness_OtherRegistersAreUnchanged :
    (∃ s', exec (.divrem 3 4 1 2) (operands 5 7) = .next s') ∧ (2 : RegIdx) ∉ destinations (.divrem 3 4 1 2) ∧
    (2 : RegIdx) ∉ destinations (.exec 0x00421305) := ⟨⟨_, rfl⟩, by decide, by decide⟩

theorem witness_StatusAndHiddenStateFrame :
    (∃ s', exec (.cmp 1 2) (flaggedState 1 2) = .next s' ∧
      s'.responses ≠ (flaggedState 1 2).responses ++ [{ code := .faulted, rdata := 0 }]) ∧
    Flag.bit ∉ flagsWritten (.cmp 1 2) ∧ usesEngine (.cmp 1 2) = false :=
  ⟨⟨_, rfl, by decide⟩, by decide, by decide⟩

theorem witness_HiddenEngineIsNeverObserved : ∃ s', exec (.div 3 1 2) (operands 5 7) = .next s' := ⟨_, rfl⟩

/-- A CMP from the reset state, and a fault with flags set: the invariant holds before, and the step is taken. -/
theorem witness_StepKeepsConsistency :
    (operands 1 2).Inv ∧ (∃ s', step ((operands 1 2).withFetchWord 32 0x00021009) = .next s') ∧
    (flaggedState top 1).Inv ∧ (∃ s', step ((flaggedState top 1).withFetchWord 32 0x00021301) = .next s') ∧
    (flaggedState top 1).idle := ⟨by decide, ⟨_, rfl⟩, by decide, ⟨_, rfl⟩, rfl⟩

/-- A run of three steps that faults, is refused, and is reset. -/
theorem witness_HaltedIffFaultOnEveryRun :
    ∃ s', Host.Core.run Sys2Proof.core 3
      { State.reset with inbox := [.request (execOf 0), .request (execOf 0x00021301), .reset] } = .next s' := ⟨_, rfl⟩

theorem witness_OneComparisonFlagUntilReset :
    (∀ rest, ((flaggedState 1 2).withFetchWord 32 0x00021308).inbox ≠ .reset :: rest) ∧
    (∃ s', step ((flaggedState 1 2).withFetchWord 32 0x00021308) = .next s') ∧
    (flaggedState 1 2).status.compared = true ∧ (operands 1 2).status.uncompared = true ∧
    (∀ t s1 rs1 rs2, nextTransaction ((operands 1 2).withFetchWord 32 0x00021308) = some (t, s1) →
      decode t ≠ .cmp rs1 rs2) := by
  refine ⟨fun _ h => (by cases h), ⟨_, rfl⟩, by decide, by decide, ?_⟩
  intro t s1 rs1 rs2 h
  cases h
  have hd : decode (tableTransaction 32 0x00021308) = .or 3 1 2 := by decide
  simp [hd]

/-- An ADD and a CMP on disjoint registers. -/
theorem witness_DisjointInstructionsCommute :
    (∀ r ∈ destinations (.add 3 1 2), r ∉ destinations (.cmp 4 5) ∧ r ∉ sources (.cmp 4 5)) ∧
    (∀ r ∈ destinations (.cmp 4 5), r ∉ sources (.add 3 1 2)) ∧
    (∀ f ∈ flagsWritten (.add 3 1 2), f ∉ flagsWritten (.cmp 4 5)) ∧
    ∃ si sij sj sji, exec (.add 3 1 2) (operands 1 2) = .next si ∧ exec (.cmp 4 5) si = .next sij ∧
      exec (.cmp 4 5) (operands 1 2) = .next sj ∧ exec (.add 3 1 2) sj = .next sji ∧
      sij.status.halted = false ∧ sji.status.halted = false :=
  ⟨by decide, by decide, by decide, _, _, _, _, rfl, rfl, rfl, rfl, by decide, by decide⟩

/-- Two masters, the second served first. -/
theorem witness_EveryInterleavingOfMastersRuns :
    Merged [[execOf 0x00021301], [execOf 0x00021009]] [execOf 0x00021009, execOf 0x00021301] :=
  .take [[execOf 0x00021301]] [] (execOf 0x00021009) [] _
    (.take [] [[]] (execOf 0x00021301) [] _ (.done _ (by decide)))

/-! ### Witnesses at signal level -/

/-- The pins at an edge: nothing offered, nothing taken. -/
def idlePins : PinsIn := { rst := false, reqValid := false, req := requestPins (execOf 0), rspReady := false }

/-- The pins that offer a command word. -/
def offerPins (w : CommandWord) : PinsIn := { idlePins with reqValid := true, req := requestPins (execOf w) }

/-- The block ready for a request. -/
def readyClock (s : State) : ClockState := { core := s, phase := .ready, offer := none }

/-- One cycle (ADD), `MUL_LATENCY` cycles whatever it is (MUL), and 257 cycles (a division on the loop path). -/
theorem witness_ClockedRequestMatchesTheTransaction :
    (readyClock (operands 7 2)).phase = .ready ∧ handshakeBroken (offerPins 0) none = false ∧
    (∀ n, ∀ q ∈ List.replicate n idlePins, q.rst = false ∧ q.reqValid = false) ∧
    (∀ w, (offerPins w).rst = false ∧ (offerPins w).reqValid = true) ∧
    0 + 1 = latency (offerPins 0x00021301).req.transaction (portIn (offerPins 0x00021301).req.transaction [] (operands 7 2)) ∧
    (List.replicate Config.mulLatencyAboveOne idlePins).length + 1 =
      latency (offerPins 0x00021303).req.transaction (portIn (offerPins 0x00021303).req.transaction [] (operands 7 2)) ∧
    (List.replicate 256 idlePins).length + 1 =
      latency (offerPins 0x00421305).req.transaction (portIn (offerPins 0x00421305).req.transaction [] (operands 7 2)) ∧
    ∃ s', exec (decodeTransaction (offerPins 0x00021301).req.transaction)
      (portIn (offerPins 0x00021301).req.transaction [] (operands 7 2)) = .next s' := by
  refine ⟨rfl, rfl, fun n q h => ?_, fun w => ⟨rfl, rfl⟩, by decide, ?_, ?_, ⟨_, rfl⟩⟩
  · obtain rfl := List.eq_of_mem_replicate h
    exact ⟨rfl, rfl⟩
  · rw [List.length_replicate]; rfl
  · rw [List.length_replicate]; decide

/-- Reset while a division is under way, the host still offering a request. -/
theorem witness_ResetInputResetsTheBlock :
    ({ offerPins 0x00021301 with rst := true }).rst = true ∧ (offerPins 0x00021301).rst = false ∧
    (({ offerPins 0x00021301 with rst := true }).reqValid = true →
      (offerPins 0x00021301).reqValid = true ∧ (offerPins 0x00021301).req = (offerPins 0x00021301).req) :=
  ⟨rfl, rfl, fun _ => ⟨rfl, rfl⟩⟩

/-- A request that is dropped, one that is changed, and one that is held. -/
theorem witness_OnlyABrokenHandshakeIsRefused :
    let c : ClockState := { readyClock (operands 7 2) with phase := .servicing 3, offer := some (offerPins 0).req }
    idlePins.rst = false ∧ c.offer = some (offerPins 0).req ∧ idlePins.reqValid = false ∧
    (offerPins 1).req ≠ (offerPins 0).req ∧ (offerPins 0).reqValid = true := by decide

theorem witness_ResponseIsHeldUntilItIsTaken :
    let c : ClockState := { readyClock (operands 7 2) with phase := .responding }
    c.phase = .responding ∧ idlePins.rst = false ∧ handshakeBroken idlePins c.offer = false ∧
    idlePins.rspReady = false ∧ ({ idlePins with rspReady := true }).rspReady = true := by decide

/-- Halted and running; a one-cycle row; MUL; a division by 0, one below its divisor, and one equal to it. -/
theorem witness_LatencyIsTheTable :
    haltedState.status.halted = true ∧ takesOneCycle (decode (execOf 0x00000000)) = true ∧
    decode (execOf 0x00021303) = .mul 3 1 2 ∧ decode (execOf 0x00021304) = .div 3 1 2 ∧
    decode (execOf 0x00421305) = .divrem 3 4 1 2 ∧ (operands 7 0).status.halted = false ∧
    ((operands 7 0).reg 2).toNat = 0 ∧ ((operands 6 7).reg 1).toNat < ((operands 6 7).reg 2).toNat ∧
    ((operands 7 7).reg 2).toNat ≠ 0 ∧ ((operands 7 7).reg 2).toNat ≤ ((operands 7 7).reg 1).toNat := by decide

/-- R830: the last dividend of the fast path, and the first of the loop. -/
theorem test_division_latency :
    latency (execOf 0x00021304) (operands 6 7) = 1 ∧ latency (execOf 0x00021304) (operands 7 7) = 257 := by decide

end Sys2Proof.Tests
end

section
/-! The frames and invariants of spec/10_state.md. The frames rest on one fact, `exec_form`: over the shared operations
an instruction is an illegal word, a command, or a read, and a command that completes writes exactly the registers and
flags that `destinations` and `flagsWritten` give. -/

namespace Sys2Proof

/-! ### What a command word decodes to -/

theorem decodeR3_ok {w : CommandWord} {op : RegIdx → RegIdx → RegIdx → Instr} {i : Instr} (h : decodeR3 w op = .ok i) :
    i = op (wordRd w) (wordRs1 w) (wordRs2 w) := by
  unfold decodeR3 at h
  split at h <;> cases h
  rfl

theorem decodeR4_ok {w : CommandWord} {op : RegIdx → RegIdx → RegIdx → RegIdx → Instr} {i : Instr}
    (h : decodeR4 w op = .ok i) : i = op (wordRd w) (wordRd2 w) (wordRs1 w) (wordRs2 w) := by
  unfold decodeR4 at h
  split at h <;> cases h
  rfl

theorem decodeR2_ok {w : CommandWord} {op : RegIdx → RegIdx → Instr} {i : Instr} (h : decodeR2 w op = .ok i) :
    i = op (wordRs1 w) (wordRs2 w) := by
  unfold decodeR2 at h
  split at h <;> cases h
  rfl

/-- A legal word stands for a command, and for no pseudo-instruction (R333, R341). -/
theorem decodeWord_ok {w : CommandWord} {i : Instr} (h : decodeWord w = .ok i) :
    i.isCommand = true ∧ i.expand = i := by
  unfold decodeWord at h
  split at h
  · cases h
  · split at h
    case h_5 => cases decodeR4_ok h; exact ⟨rfl, rfl⟩
    case h_9 | h_10 => cases decodeR2_ok h; exact ⟨rfl, rfl⟩
    case h_12 => cases h
    all_goals cases decodeR3_ok h; exact ⟨rfl, rfl⟩

/-- Every word stands for a command or an illegal word, and for no pseudo-instruction. -/
theorem decodeCommand_command (w : CommandWord) :
    (decodeCommand w).isCommand = true ∧ (decodeCommand w).expand = decodeCommand w := by
  unfold decodeCommand
  split
  · next h => exact decodeWord_ok h
  · exact ⟨rfl, rfl⟩

theorem expand_expand (i : Instr) : i.expand.expand = i.expand := by
  cases i with
  | exec w => exact (decodeCommand_command w).2
  | _ => rfl

theorem expand_ne_exec (i : Instr) (w : CommandWord) : i.expand ≠ .exec w := by
  cases i with
  | exec v =>
    intro h
    have hc : (decodeCommand v).isCommand = true := (decodeCommand_command v).1
    rw [show decodeCommand v = .exec w from h] at hc
    cases hc
  | _ => exact Instr.noConfusion

/-- The two decodings of a transaction differ by the expansion (R300, R341). -/
theorem expand_decodeTransaction (t : Transaction) : (decodeTransaction t).expand = decode t := by
  unfold decodeTransaction decode decodeKind
  split <;> rfl

end Sys2Proof

namespace Sys2Proof.Machine

open Sys2Proof.Claims

/-! ### EXEC and the pseudo-instructions run their command -/

theorem execExec_eq_exec (w : CommandWord) (s : State) : execExec w s = exec (decodeCommand w) s := by
  have hc := (decodeCommand_command w).1
  unfold execExec
  cases hi : decodeCommand w with
  | load | store | exec | rdstatus => rw [hi] at hc; cases hc
  | _ => rfl

/-- An instruction and its expansion have one meaning (R336, R341). -/
theorem exec_expand (i : Instr) (s : State) : exec i.expand s = exec i s := by
  cases i with
  | exec w => exact (execExec_eq_exec w s).symm
  | _ => rfl

theorem destinations_expand (i : Instr) : destinations i.expand = destinations i := by
  rw [destinations, expand_expand, destinations]

theorem flagsWritten_expand (i : Instr) : flagsWritten i.expand = flagsWritten i := by
  rw [flagsWritten, expand_expand, flagsWritten]

theorem usesEngine_expand (i : Instr) : usesEngine i.expand = usesEngine i := by
  unfold usesEngine
  rw [expand_expand]

/-! ### What a command that completes writes -/

/-- The places that a command writes: its registers, its flags, and whether the engine's too. -/
def Writes.targets (w : Writes) : List RegIdx × List Flag × Bool :=
  (w.regs.map Prod.fst, w.flags.map Prod.fst, w.usesEngine)

/-- The places that an instruction is said to write (R102, R110, R131). -/
def targetsOf (i : Instr) : List RegIdx × List Flag × Bool := (destinations i, flagsWritten i, usesEngine i)

theorem targetsOf_expand (i : Instr) : targetsOf i.expand = targetsOf i := by
  simp only [targetsOf, destinations_expand, flagsWritten_expand, usesEngine_expand]

section
variable {rd rd2 : RegIdx} {a b : U256} {w : Writes}

theorem targets_of_writesReg {v : U256} (h : writesReg rd v = .ok w) : w.targets = ([rd], [], false) := by
  cases h; rfl

theorem targets_of_writesFlags {fs : List (Flag × Bool)} (h : writesFlags fs = .ok w) :
    w.targets = ([], fs.map Prod.fst, false) := by
  cases h; rfl

theorem computeAdd_targets (h : computeAdd rd a b = .ok w) : w.targets = ([rd], [], false) := by
  simp only [computeAdd] at h
  split at h
  · cases h
  · exact targets_of_writesReg h

theorem computeSub_targets (h : computeSub rd a b = .ok w) : w.targets = ([rd], [], false) := by
  simp only [computeSub] at h
  split at h
  · cases h
  · split at h
    · cases h
    · exact targets_of_writesReg h

theorem computeMul_targets (h : computeMul rd a b = .ok w) : w.targets = ([rd], [], false) := by
  simp only [computeMul] at h
  split at h
  · cases h
  · exact targets_of_writesReg h

theorem computeDiv_targets (h : computeDiv rd a b = .ok w) : w.targets = ([rd], [], true) := by
  unfold computeDiv at h
  split at h <;> cases h
  rfl

theorem computeDivrem_targets (h : computeDivrem rd rd2 a b = .ok w) : w.targets = ([rd, rd2], [], true) := by
  unfold computeDivrem at h
  split at h <;> cases h
  rfl

theorem computeBitat_targets (h : computeBitat a b = .ok w) : w.targets = ([], [.bit], false) := by
  simp only [computeBitat] at h
  split at h
  · cases h
  · split at h <;> exact targets_of_writesFlags h

theorem computeSetbit_targets (h : computeSetbit rd a b = .ok w) : w.targets = ([rd], [], false) := by
  simp only [computeSetbit] at h
  split at h
  · cases h
  · split at h <;> exact targets_of_writesReg h

end

/-! ### Every instruction over the shared operations -/

/-- An instruction as one of the shared operations: an illegal word, a command whose writes are the instruction's own,
or a read, which answers from the registers and STATUS and writes nothing. -/
inductive ExecForm (i : Instr) : Prop
  | illegal (h : ∀ s, exec i s = serviceIllegal s)
  | command (rs1 rs2 : RegIdx) (f : U256 → U256 → Computed) (h : ∀ s, exec i s = serviceCommand rs1 rs2 f s)
      (hw : ∀ a b w, f a b = .ok w → w.targets = targetsOf i)
  | read (d : Vector U256 Config.numRegs → Status → BitVec 256)
      (h : ∀ s, exec i s = .next (portOut .ok (d s.regs s.status) s))

/-- LOAD is answered like a command that reads no operand (R400, R336); the operands named here go unused. -/
theorem exec_load_eq_serviceCommand (r : RegIdx) (e : Direction) (data : BitVec 256) (s : State) :
    exec (.load r e data) s = serviceCommand r r (fun _ _ => writesReg r (unpack e (bytesOfLanes data))) s := rfl

theorem execForm_of_ne_exec {i : Instr} (hi : ∀ w, i ≠ .exec w) : ExecForm i := by
  cases i with
  | exec w => exact absurd rfl (hi w)
  | load r e data => exact .command r r _ (exec_load_eq_serviceCommand r e data) fun _ _ _ => targets_of_writesReg
  | store r e => exact .read (fun regs _ => lanesOfBytes (pack e regs[r])) fun _ => rfl
  | rdstatus => exact .read (fun _ status => status.toWord.setWidth 256) fun _ => rfl
  | illegal w => exact .illegal fun _ => rfl
  | add rd rs1 rs2 => exact .command rs1 rs2 (computeAdd rd) (fun _ => rfl) fun _ _ _ => computeAdd_targets
  | sub rd rs1 rs2 => exact .command rs1 rs2 (computeSub rd) (fun _ => rfl) fun _ _ _ => computeSub_targets
  | mul rd rs1 rs2 => exact .command rs1 rs2 (computeMul rd) (fun _ => rfl) fun _ _ _ => computeMul_targets
  | div rd rs1 rs2 => exact .command rs1 rs2 (computeDiv rd) (fun _ => rfl) fun _ _ _ => computeDiv_targets
  | divrem rd rd2 rs1 rs2 =>
    rcases eq_or_ne rd rd2 with rfl | hne
    · exact .illegal fun s => exec_divrem_same s rd rs1 rs2
    · exact .command rs1 rs2 (computeDivrem rd rd2) (fun s => exec_divrem s rd rd2 rs1 rs2 hne)
        fun _ _ _ => computeDivrem_targets
  | shl rd rs1 rs2 => exact .command rs1 rs2 (computeShl rd) (fun _ => rfl) fun _ _ _ => targets_of_writesReg
  | shr rd rs1 rs2 => exact .command rs1 rs2 (computeShr rd) (fun _ => rfl) fun _ _ _ => targets_of_writesReg
  | or rd rs1 rs2 => exact .command rs1 rs2 (computeOr rd) (fun _ => rfl) fun _ _ _ => targets_of_writesReg
  | cmp rs1 rs2 => exact .command rs1 rs2 computeCmp (fun _ => rfl) fun _ _ _ => targets_of_writesFlags
  | bitat rs1 rs2 => exact .command rs1 rs2 computeBitat (fun _ => rfl) fun _ _ _ => computeBitat_targets
  | setbit rd rs1 rs2 => exact .command rs1 rs2 (computeSetbit rd) (fun _ => rfl) fun _ _ _ => computeSetbit_targets
  | mv rd rs => exact .command rs rs (computeOr rd) (fun _ => rfl) fun _ _ _ => targets_of_writesReg
  | clr rd => exact .command rd rd (computeSub rd) (fun _ => rfl) fun _ _ _ => computeSub_targets

theorem exec_form (i : Instr) : ExecForm i := by
  cases execForm_of_ne_exec (expand_ne_exec i) with
  | illegal h => exact .illegal fun s => (exec_expand i s).symm.trans (h s)
  | command rs1 rs2 f h hw =>
    exact .command rs1 rs2 f (fun s => (exec_expand i s).symm.trans (h s))
      fun a b w hf => (hw a b w hf).trans (targetsOf_expand i)
  | read d h => exact .read d fun s => (exec_expand i s).symm.trans (h s)

/-! ### The frame of an instruction -/

/-- What an instruction does to the registers, STATUS and the hidden engine: nothing (a refusal or a read), what a
fault does, or its own writes. -/
theorem exec_frame_cases {i : Instr} {s s' : State} (h : exec i s = .next s') :
    (s'.regs = s.regs ∧ s'.status = s.status ∧ s'.engine = s.engine ∧ s'.freeCount = s.freeCount) ∨
    (∃ c, s' = raiseFault c s) ∨
    (∃ w, w.targets = targetsOf i ∧ s' = portOut .ok 0 (performWrites w s)) := by
  cases exec_form i with
  | illegal hi =>
    rcases serviceIllegal_cases ((hi s).symm.trans h) with ⟨-, rfl⟩ | ⟨-, rfl⟩
    · exact .inl ⟨rfl, rfl, rfl, rfl⟩
    · exact .inr (.inl ⟨_, rfl⟩)
  | command rs1 rs2 f hf hw =>
    rcases serviceCommand_cases ((hf s).symm.trans h) with ⟨-, rfl⟩ | ⟨c, -, -, rfl⟩ | ⟨w, -, hok, rfl⟩
    · exact .inl ⟨rfl, rfl, rfl, rfl⟩
    · exact .inr (.inl ⟨c, rfl⟩)
    · exact .inr (.inr ⟨w, hw _ _ _ hok, rfl⟩)
  | read d hd =>
    cases (hd s).symm.trans h
    exact .inl ⟨rfl, rfl, rfl, rfl⟩

/-- A command that does not run the engine leaves it, and the counter of free values, as they were. -/
theorem performWrites_engine_of_not_usesEngine {w : Writes} (hw : w.usesEngine = false) (s : State) :
    (performWrites w s).engine = s.engine ∧ (performWrites w s).freeCount = s.freeCount := by
  have hr := foldl_setReg_frame w.regs s
  have hf := foldl_setFlag_frame w.flags (w.regs.foldl (fun s p => s.setReg p.1 p.2) s)
  simp_all [performWrites]

theorem raiseFault_flag (c : FaultCause) (s : State) (f : Flag) :
    (raiseFault c s).status.flag f = s.status.flag f := by
  cases f <;> rfl

theorem exec_reg_other {i : Instr} {s s' : State} {r : RegIdx} (h : exec i s = .next s') (hr : r ∉ destinations i) :
    s'.reg r = s.reg r := by
  rcases exec_frame_cases h with ⟨hregs, -⟩ | ⟨c, rfl⟩ | ⟨w, hw, rfl⟩
  · rw [State.reg, hregs, State.reg]
  · rfl
  · have hd : w.regs.map Prod.fst = destinations i := congrArg Prod.fst hw
    exact performWrites_reg_other w s r (hd ▸ hr)

theorem exec_flag_other {i : Instr} {s s' : State} {f : Flag} (h : exec i s = .next s') (hf : f ∉ flagsWritten i) :
    s'.status.flag f = s.status.flag f := by
  rcases exec_frame_cases h with ⟨-, hst, -⟩ | ⟨c, rfl⟩ | ⟨w, hw, rfl⟩
  · rw [hst]
  · exact raiseFault_flag c s f
  · have hd : w.flags.map Prod.fst = flagsWritten i := congrArg (·.2.1) hw
    exact performWrites_flag_other w s f (hd ▸ hf)

theorem exec_halted_fault_of_not_faulted {i : Instr} {s s' : State} (h : exec i s = .next s')
    (hr : s'.responses ≠ s.responses ++ [{ code := .faulted, rdata := 0 }]) :
    s'.status.halted = s.status.halted ∧ s'.status.fault = s.status.fault := by
  rcases exec_frame_cases h with ⟨-, hst, -⟩ | ⟨c, rfl⟩ | ⟨w, -, rfl⟩
  · rw [hst]; exact ⟨rfl, rfl⟩
  · exact absurd (raiseFault_responses c s) hr
  · obtain ⟨hhalted, hfault, -⟩ := performWrites_frame w s
    exact ⟨hhalted, hfault⟩

theorem exec_engine_of_not_usesEngine {i : Instr} {s s' : State} (h : exec i s = .next s')
    (hu : usesEngine i = false) : s'.engine = s.engine ∧ s'.freeCount = s.freeCount := by
  rcases exec_frame_cases h with ⟨-, -, he⟩ | ⟨c, rfl⟩ | ⟨w, hw, rfl⟩
  · exact he
  · exact ⟨rfl, rfl⟩
  · have hd : w.usesEngine = usesEngine i := congrArg (·.2.2) hw
    exact performWrites_engine_of_not_usesEngine (hd.trans hu) s

/-! ### The engine's hidden registers and the counter of free values are not read -/

/-- The states differ at most in the engine and the counter of free values. -/
structure SameButHidden (s t : State) : Prop where
  regs      : t.regs = s.regs
  status    : t.status = s.status
  responses : t.responses = s.responses
  inbox     : t.inbox = s.inbox
  inService : t.inService = s.inService

namespace SameButHidden

variable {s t : State}

theorem reg (h : SameButHidden s t) (r : RegIdx) : t.reg r = s.reg r := by
  rw [State.reg, h.regs, State.reg]

theorem portOut (h : SameButHidden s t) (c : ResponseCode) (d : BitVec 256) :
    SameButHidden (portOut c d s) (portOut c d t) :=
  { h with responses := by simp [h.responses], inService := rfl }

theorem raiseFault (h : SameButHidden s t) (c : FaultCause) : SameButHidden (raiseFault c s) (raiseFault c t) :=
  { h.portOut .faulted 0 with status := by simp [h.status] }

theorem setReg (h : SameButHidden s t) (r : RegIdx) (v : U256) : SameButHidden (s.setReg r v) (t.setReg r v) :=
  { h with regs := by simp [h.regs] }

theorem setFlag (h : SameButHidden s t) (f : Flag) (v : Bool) : SameButHidden (s.setFlag f v) (t.setFlag f v) :=
  { h with status := by simp [h.status] }

theorem releaseEngine (h : SameButHidden s t) : SameButHidden (releaseEngine s) (releaseEngine t) :=
  ⟨h.regs, h.status, h.responses, h.inbox, h.inService⟩

theorem foldl_setReg (h : SameButHidden s t) (ws : List (RegIdx × U256)) :
    SameButHidden (ws.foldl (fun s p => s.setReg p.1 p.2) s) (ws.foldl (fun s p => s.setReg p.1 p.2) t) := by
  induction ws generalizing s t with
  | nil => exact h
  | cons p ws ih => exact ih (h.setReg p.1 p.2)

theorem foldl_setFlag (h : SameButHidden s t) (fs : List (Flag × Bool)) :
    SameButHidden (fs.foldl (fun s p => s.setFlag p.1 p.2) s) (fs.foldl (fun s p => s.setFlag p.1 p.2) t) := by
  induction fs generalizing s t with
  | nil => exact h
  | cons p fs ih => exact ih (h.setFlag p.1 p.2)

theorem performWrites (h : SameButHidden s t) (w : Writes) :
    SameButHidden (performWrites w s) (performWrites w t) := by
  have hw := (h.foldl_setReg w.regs).foldl_setFlag w.flags
  unfold Machine.performWrites
  split
  · exact hw.releaseEngine
  · exact hw

/-- A command leads two states that differ only in what is hidden to such states again. -/
theorem serviceCommand (h : SameButHidden s t) {rs1 rs2 : RegIdx} {f : U256 → U256 → Computed} {s' : State}
    (hs : serviceCommand rs1 rs2 f s = .next s') :
    ∃ t', serviceCommand rs1 rs2 f t = .next t' ∧ SameButHidden s' t' := by
  rcases serviceCommand_cases hs with ⟨hh, rfl⟩ | ⟨c, hh, hf, rfl⟩ | ⟨w, hh, hf, rfl⟩
  · exact ⟨_, serviceCommand_halted _ _ _ (h.status ▸ hh), h.portOut .halted 0⟩
  · exact ⟨_, serviceCommand_error (h.status ▸ hh) (by rw [h.reg, h.reg, hf]), h.raiseFault c⟩
  · exact ⟨_, serviceCommand_ok (h.status ▸ hh) (by rw [h.reg, h.reg, hf]), (h.performWrites w).portOut .ok 0⟩

theorem serviceIllegal (h : SameButHidden s t) {s' : State} (hs : serviceIllegal s = .next s') :
    ∃ t', serviceIllegal t = .next t' ∧ SameButHidden s' t' := by
  rcases serviceIllegal_cases hs with ⟨hh, rfl⟩ | ⟨hh, rfl⟩
  · exact ⟨_, serviceIllegal_halted (h.status ▸ hh), h.portOut .halted 0⟩
  · exact ⟨_, serviceIllegal_running (h.status ▸ hh), h.raiseFault .illegalCommand⟩

theorem exec (h : SameButHidden s t) {i : Instr} {s' : State} (hs : exec i s = .next s') :
    ∃ t', exec i t = .next t' ∧ SameButHidden s' t' := by
  cases exec_form i with
  | illegal hi => rw [hi] at hs ⊢; exact h.serviceIllegal hs
  | command rs1 rs2 f hf _ => rw [hf] at hs ⊢; exact h.serviceCommand hs
  | read d hd =>
    rw [hd] at hs ⊢
    cases hs
    have hdata : d t.regs t.status = d s.regs s.status := by rw [h.regs, h.status]
    exact ⟨_, rfl, hdata ▸ h.portOut .ok _⟩

end SameButHidden

/-! ### The comparison flags (R111) -/

/-- Whether a CMP has completed is read from LT, EQ and GT alone. -/
theorem compared_uncompared_congr {st st' : Status} (h : ∀ f, f ≠ .bit → st'.flag f = st.flag f) :
    st'.compared = st.compared ∧ st'.uncompared = st.uncompared := by
  have hlt : st'.lt = st.lt := h .lt nofun
  have heq : st'.eq = st.eq := h .eq nofun
  have hgt : st'.gt = st.gt := h .gt nofun
  simp only [Status.compared, Status.uncompared, hlt, heq, hgt, and_self]

theorem comparisonFlags_compared (c : Ordering) (s : State) :
    ((comparisonFlags c).foldl (fun s p => s.setFlag p.1 p.2) s).status.compared = true := by
  cases c <;> rfl

theorem exec_cmp_running (s : State) (rs1 rs2 : RegIdx) (h : s.status.halted = false) :
    ∃ s', exec (.cmp rs1 rs2) s = .next s' ∧ s'.status.compared = true :=
  ⟨_, serviceCommand_writesFlags (f := computeCmp) h rfl, comparisonFlags_compared (cmp3 (s.reg rs1) (s.reg rs2)) s⟩

theorem notMem_flagsWritten_of_ne_cmp {i : Instr} (hi : ∀ rs1 rs2, i.expand ≠ .cmp rs1 rs2) {f : Flag}
    (hf : f ≠ .bit) : f ∉ flagsWritten i := by
  unfold flagsWritten
  cases h : i.expand with
  | cmp rs1 rs2 => exact absurd h (hi rs1 rs2)
  | bitat rs1 rs2 => simpa [flagsWrittenOf] using hf
  | _ => exact List.not_mem_nil

/-- An instruction that is no CMP keeps LT, EQ and GT. -/
theorem exec_keeps_comparison {i : Instr} {s s' : State} (h : exec i s = .next s')
    (hi : ∀ rs1 rs2, i.expand ≠ .cmp rs1 rs2) :
    s'.status.compared = s.status.compared ∧ s'.status.uncompared = s.status.uncompared :=
  compared_uncompared_congr fun _ hf => exec_flag_other h (notMem_flagsWritten_of_ne_cmp hi hf)

/-- An instruction keeps LT, EQ and GT, or it is a CMP that has completed. -/
theorem exec_comparison_cases {i : Instr} {s s' : State} (h : exec i s = .next s') :
    (s'.status.compared = s.status.compared ∧ s'.status.uncompared = s.status.uncompared) ∨
      s'.status.compared = true := by
  by_cases hi : ∀ rs1 rs2, i.expand ≠ .cmp rs1 rs2
  · exact .inl (exec_keeps_comparison h hi)
  · push Not at hi
    obtain ⟨rs1, rs2, hi⟩ := hi
    rw [← exec_expand, hi] at h
    cases hh : s.status.halted with
    | true =>
      cases (serviceCommand_halted rs1 rs2 computeCmp hh).symm.trans h
      exact .inl ⟨rfl, rfl⟩
    | false =>
      obtain ⟨s1, h1, hc⟩ := exec_cmp_running s rs1 rs2 hh
      cases h1.symm.trans h
      exact .inr hc

/-! ### The invariant (R111, R122) -/

theorem reset_inv : State.reset.Inv := ⟨rfl, .inr rfl⟩

/-- Every instruction keeps R122: only a fault writes HALTED or FAULT, and it writes both. -/
theorem exec_keeps_haltedIffFault {i : Instr} {s s' : State} (hs : s.status.haltedIffFault)
    (h : exec i s = .next s') : s'.status.haltedIffFault := by
  rcases exec_completes h with ⟨-, rfl⟩ | ⟨c, -, rfl⟩ | ⟨w, d, rfl⟩
  · exact hs
  · rfl
  · obtain ⟨hhalted, hfault, -⟩ := performWrites_frame w s
    simpa only [Status.haltedIffFault, portOut_status, hhalted, hfault] using hs

theorem exec_keeps_inv {i : Instr} {s s' : State} (hs : s.Inv) (h : exec i s = .next s') : s'.Inv := by
  obtain ⟨hfault, hcmp⟩ := hs
  refine ⟨exec_keeps_haltedIffFault hfault h, ?_⟩
  rcases exec_comparison_cases h with ⟨hc, hu⟩ | hc
  · rwa [hc, hu]
  · exact .inl hc

theorem exec_idle {i : Instr} {s s' : State} (h : exec i s = .next s') : s'.idle := by
  rcases exec_completes h with ⟨-, rfl⟩ | ⟨c, -, rfl⟩ | ⟨w, d, rfl⟩ <;> rfl

theorem nextTransaction_status {s s1 : State} {t : Transaction} (h : nextTransaction s = some (t, s1)) :
    s1.status = s.status := by
  rcases nextTransaction_cases h with ⟨-, rfl⟩ | ⟨rest, -, -, rfl⟩ <;> rfl

theorem step_keeps_inv {s s' : State} (hs : s.Inv) (h : step s = .next s') : s'.Inv := by
  rcases step_cases h with ⟨rest, -, rfl⟩ | ⟨rfl, -, -⟩ | ⟨t, s1, hn, he⟩
  · exact reset_inv
  · exact hs
  · have h1 : s1.Inv := by rwa [State.Inv, nextTransaction_status hn]
    exact exec_keeps_inv h1 he

theorem step_keeps_idle {s s' : State} (hs : s.idle) (h : step s = .next s') : s'.idle := by
  rcases step_cases h with ⟨rest, -, rfl⟩ | ⟨rfl, -, -⟩ | ⟨t, s1, -, he⟩
  · rfl
  · exact hs
  · exact exec_idle he

/-! ### The FAULT field (R120, R121) -/

theorem faultField_ne_zero_iff (o : Option FaultCause) : faultField o ≠ 0 ↔ o.isSome = true := by
  cases o with
  | none => decide
  | some c => cases c <;> decide

theorem faultField_le (o : Option FaultCause) : (faultField o).toNat ≤ 6 := by
  cases o with
  | none => decide
  | some c => cases c <;> decide

end Sys2Proof.Machine

/-! ### The obligations -/

open Sys2Proof Sys2Proof.Machine Sys2Proof.Claims

/-- Settles O50: each of the three things a step can do keeps the invariant. -/
theorem stepKeepsConsistency : Obligations.StepKeepsConsistency :=
  fun _ _ hs h => ⟨step_keeps_inv hs h, fun hidle => step_keeps_idle hidle h⟩

/-- Settles O46. -/
theorem otherRegistersAreUnchanged : Obligations.OtherRegistersAreUnchanged :=
  fun _ _ _ _ h hr => exec_reg_other h hr

/-- Settles O47. -/
theorem statusAndHiddenStateFrame : Obligations.StatusAndHiddenStateFrame :=
  fun _ _ _ h => ⟨fun _ hf => exec_flag_other h hf, exec_halted_fault_of_not_faulted h, exec_engine_of_not_usesEngine h⟩

/-- Settles O48: no operation reads the engine or the counter, so agreement on the rest is kept. -/
theorem hiddenEngineIsNeverObserved : Obligations.HiddenEngineIsNeverObserved := by
  intro i s s' e n h
  have hsame : SameButHidden s { s with engine := e, freeCount := n } := ⟨rfl, rfl, rfl, rfl, rfl⟩
  obtain ⟨t', ht, hkeep⟩ := hsame.exec h
  exact ⟨t', ht, hkeep.regs, hkeep.status, hkeep.responses, hkeep.inbox, hkeep.inService⟩

/-- Settles O51, from the invariant along the run. -/
theorem haltedIffFaultOnEveryRun : Obligations.HaltedIffFaultOnEveryRun := by
  intro events n s' h
  have hstart : State.Inv { State.reset with inbox := events } := reset_inv
  obtain ⟨hhalted, -⟩ : s'.Inv := runSteps_keeps (fun _ _ => step_keeps_inv) hstart h
  exact ⟨by rw [faultField_ne_zero_iff, hhalted], faultField_le _⟩

/-- Settles O52: outside a reset a step waits or runs an instruction, and only a CMP writes the three flags. -/
theorem oneComparisonFlagUntilReset : Obligations.OneComparisonFlagUntilReset := by
  refine ⟨rfl, exec_cmp_running, fun s s' hnr h => ?_⟩
  rcases step_cases h with ⟨rest, hi, -⟩ | ⟨rfl, -, -⟩ | ⟨t, s1, hn, he⟩
  · exact absurd hi (hnr rest)
  · exact ⟨id, fun _ => id⟩
  · rw [← nextTransaction_status hn]
    constructor
    · intro hc
      rcases exec_comparison_cases he with ⟨hkeep, -⟩ | hdone
      · rwa [hkeep]
      · exact hdone
    · intro hcmp hu
      have hne (rs1 rs2 : RegIdx) : (decodeTransaction t).expand ≠ .cmp rs1 rs2 :=
        expand_decodeTransaction t ▸ hcmp t s1 rs1 rs2 hn
      rw [(exec_keeps_comparison he hne).2, hu]

/-- Settles O1, with R140's table read off the reset state. -/
theorem resetLeavesZeroRegistersAndStatus : Obligations.ResetLeavesZeroRegistersAndStatus :=
  ⟨hostReset_reg [] State.reset, by decide, rfl, rfl⟩

/-- Settles O49. -/
theorem consistencyHoldsAfterReset : Obligations.ConsistencyHoldsAfterReset := ⟨reset_inv, rfl⟩

end

section
/-! The byte packing of spec/20_memory.md. Every packing is read over one number, `numberLE`: the little-endian ones
directly, the big-endian ones and the data field through their little-endian counterparts. -/

namespace Sys2Proof.Machine

/-! ### The little-endian number of a byte list -/

theorem numberLE_append (xs ys : List Byte) :
    numberLE (xs ++ ys) = numberLE xs + 256 ^ xs.length * numberLE ys := by
  induction xs with
  | nil => simp
  | cons x xs ih => simp only [List.cons_append, numberLE_cons, ih, List.length_cons]; ring

theorem numberLE_replicate_zero (n : Nat) : numberLE (List.replicate n 0) = 0 := by
  induction n with
  | zero => rfl
  | succ n ih => rw [List.replicate_succ, numberLE_cons, ih]; rfl

theorem numberLE_eq_sum (bs : List Byte) :
    numberLE bs = ∑ k ∈ Finset.range bs.length, (bs.getD k 0).toNat * 256 ^ k := by
  induction bs with
  | nil => rfl
  | cons b bs ih =>
    simp only [numberLE_cons, ih, List.length_cons, Finset.sum_range_succ', Finset.mul_sum, List.getD_cons_succ,
      List.getD_cons_zero, pow_zero, mul_one]
    rw [add_comm]
    congr 1
    exact Finset.sum_congr rfl fun k _ => by ring

/-- Division and remainder read byte `k` back from the number. -/
theorem numberLE_div_mod (bs : List Byte) {k : Nat} (hk : k < bs.length) :
    numberLE bs / 256 ^ k % 256 = bs[k].toNat := by
  induction bs generalizing k with
  | nil => cases hk
  | cons b bs ih =>
    have hb := b.isLt
    cases k with
    | zero => simp only [numberLE_cons, pow_zero, List.getElem_cons_zero]; omega
    | succ k =>
      have hdiv : (b.toNat + 256 * numberLE bs) / 256 = numberLE bs := by omega
      rw [numberLE_cons, pow_succ', ← Nat.div_div_eq_div_mul, hdiv]
      exact ih (Nat.lt_of_succ_lt_succ hk)

theorem numberLE_lt_of_length_le {bs : List Byte} {n : Nat} (h : bs.length ≤ n) : numberLE bs < 256 ^ n :=
  (numberLE_lt bs).trans_le (Nat.pow_le_pow_right (by decide) h)

/-- A big-endian number is the little-endian number of the reversed bytes (R211, R212). -/
theorem numberBE_eq_numberLE_reverse (bs : List Byte) : numberBE bs = numberLE bs.reverse := by
  simp only [numberBE, numberLE, List.foldr_reverse, add_comm, mul_comm]

/-! ### Little-endian packing -/

/-- R214: byte `k` of `packLE v` is digit `k` of the value to the base 256. -/
theorem packLE_byte_toNat (n k : Nat) :
    (BitVec.ofNat 8 ((n >>> (8 * k)) &&& 0xFF)).toNat = n / 256 ^ k % 256 := by
  rw [BitVec.toNat_ofNat, Nat.and_two_pow_sub_one_eq_mod _ 8, Nat.shiftRight_eq_div_pow, pow_mul, Nat.mod_mod]
  norm_num

/-- The first `m` bytes of the little-endian packing make the number modulo `256^m`. -/
theorem numberLE_map_bytes (n m : Nat) :
    numberLE ((List.range m).map fun k => BitVec.ofNat 8 ((n >>> (8 * k)) &&& 0xFF)) = n % 256 ^ m := by
  induction m with
  | zero => simp [Nat.mod_one]
  | succ m ih =>
    rw [List.range_succ, List.map_append, numberLE_append, ih, List.length_map, List.length_range, Nat.mod_pow_succ]
    simp only [List.map_cons, List.map_nil, numberLE_cons, numberLE_nil, packLE_byte_toNat, mul_zero, add_zero]

theorem numberLE_packLE (v : U256) : numberLE (packLE v) = v.toNat := by
  rw [packLE, numberLE_map_bytes]
  exact Nat.mod_eq_of_lt v.isLt

/-- R212, R213: the value of at most 32 bytes is their little-endian number. -/
theorem unpackLE_toNat {bytes : List Byte} (h : bytes.length ≤ 32) : (unpackLE bytes).toNat = numberLE bytes := by
  have hsplit : numberLE bytes = numberLE (bytes.take 16) + 2 ^ 128 * numberLE (bytes.drop 16) := by
    rcases le_total bytes.length 16 with hshort | hlong
    · simp [List.take_of_length_le hshort, List.drop_of_length_le hshort]
    · conv_lhs => rw [← List.take_append_drop 16 bytes, numberLE_append, List.length_take_of_le hlong]
      norm_num
  have hlo : numberLE (bytes.take 16) < 256 ^ 16 := numberLE_lt_of_length_le (List.length_take_le 16 bytes)
  have hlen : (bytes.drop 16).length ≤ 16 := by simp; omega
  have hhi : numberLE (bytes.drop 16) < 256 ^ 16 := numberLE_lt_of_length_le hlen
  rw [unpackLE, List.take_of_length_le hlen, limbsOfNat_toNat hhi hlo, hsplit]
  omega

/-- R215: the value's own bytes give the value. -/
theorem unpackLE_packLE (v : U256) : unpackLE (packLE v) = v :=
  BitVec.eq_of_toNat_eq (by rw [unpackLE_toNat (packLE_length v).le, numberLE_packLE])

/-- R215: the value of 32 bytes gives the bytes. -/
theorem packLE_unpackLE {bytes : List Byte} (h : bytes.length = 32) : packLE (unpackLE bytes) = bytes := by
  refine List.ext_getElem (by rw [packLE_length, h]) fun k _ hk => BitVec.eq_of_toNat_eq ?_
  simp only [packLE, List.getElem_map, List.getElem_range]
  rw [packLE_byte_toNat, unpackLE_toNat h.le, numberLE_div_mod bytes hk]

/-! ### Big-endian packing and the data field, through little-endian packing -/

/-- The two packings of a value are each other's reverse (R214). -/
theorem packBE_eq_reverse (v : U256) : packBE v = (packLE v).reverse := by
  have hrange : (List.range 32).reverse = (List.range 32).map (31 - ·) := by decide
  rw [packLE, ← List.map_reverse, hrange, List.map_map]
  rfl

/-- The big-endian value of 32 bytes is the little-endian value of the reversed bytes (R211, R212). -/
theorem unpackBE_eq_unpackLE_reverse {bytes : List Byte} (h : bytes.length = 32) :
    unpackBE bytes = unpackLE bytes.reverse := by
  have hlow : (bytes.drop 16).take 16 = bytes.drop 16 := List.take_of_length_le (by simp [h])
  have hhigh : (bytes.take 16).reverse.take 16 = (bytes.take 16).reverse := List.take_of_length_le (by simp)
  rw [unpackBE, unpackLE, List.take_reverse, List.drop_reverse, h, hlow, hhigh, numberBE_eq_numberLE_reverse,
    numberBE_eq_numberLE_reverse]

/-- R217: the data field's bytes are its little-endian packing. -/
theorem bytesOfLanes_eq_packLE (data : BitVec 256) : bytesOfLanes data = packLE data := by
  refine List.map_congr_left fun k _ => BitVec.eq_of_toNat_eq ?_
  rw [packLE_byte_toNat, BitVec.extractLsb'_toNat, Nat.shiftRight_eq_div_pow, pow_mul]
  norm_num

/-- R217: the data field that carries 32 bytes is their little-endian value. -/
theorem lanesOfBytes_eq_unpackLE {bytes : List Byte} (h : bytes.length ≤ 32) : lanesOfBytes bytes = unpackLE bytes := by
  have hlt : numberLE bytes < 2 ^ 256 := numberLE_lt_of_length_le h
  apply BitVec.eq_of_toNat_eq
  rw [unpackLE_toNat h, lanesOfBytes, BitVec.toNat_ofNat, Nat.mod_eq_of_lt hlt]

theorem packBE_unpackLE {bytes : List Byte} (h : bytes.length = 32) : packBE (unpackLE bytes) = bytes.reverse := by
  rw [packBE_eq_reverse, packLE_unpackLE h]

theorem packLE_unpackBE {bytes : List Byte} (h : bytes.length = 32) : packLE (unpackBE bytes) = bytes.reverse := by
  rw [unpackBE_eq_unpackLE_reverse h, packLE_unpackLE (by rw [List.length_reverse, h])]

theorem unpack_pack (e : Direction) (v : U256) : unpack e (pack e v) = v := by
  cases e with
  | big =>
    rw [pack, unpack, unpackBE_eq_unpackLE_reverse (packBE_length v), packBE_eq_reverse, List.reverse_reverse,
      unpackLE_packLE]
  | little => exact unpackLE_packLE v

theorem pack_unpack (e : Direction) {bytes : List Byte} (h : bytes.length = 32) : pack e (unpack e bytes) = bytes := by
  cases e with
  | big => rw [pack, unpack, packBE_eq_reverse, packLE_unpackBE h, List.reverse_reverse]
  | little => exact packLE_unpackLE h

theorem bytesOfLanes_lanesOfBytes {bytes : List Byte} (h : bytes.length = 32) :
    bytesOfLanes (lanesOfBytes bytes) = bytes := by
  rw [bytesOfLanes_eq_packLE, lanesOfBytes_eq_unpackLE h.le, packLE_unpackLE h]

/-- R213: zeros after the bytes do not change their value. -/
theorem unpackLE_append_zeros {bytes : List Byte} {n : Nat} (h : bytes.length + n ≤ 32) :
    unpackLE (bytes ++ List.replicate n 0) = unpackLE bytes := by
  apply BitVec.eq_of_toNat_eq
  rw [unpackLE_toNat (by simpa using h), unpackLE_toNat (by omega), numberLE_append, numberLE_replicate_zero, mul_zero,
    add_zero]

end Sys2Proof.Machine

/-! ### The obligations on transfers -/

open Sys2Proof Sys2Proof.Machine

/-- Settles O16. -/
theorem packingRoundTrips : Obligations.PackingRoundTrips :=
  fun e => ⟨unpack_pack e, fun _ h => ⟨pack_unpack e h, bytesOfLanes_lanesOfBytes h⟩⟩

/-- Settles O17. -/
theorem mixedDirectionsReverseTheBytes : Obligations.MixedDirectionsReverseTheBytes :=
  fun _ h => ⟨packLE_unpackBE h, packBE_unpackLE h⟩

/-- Settles O18. -/
theorem shortLittleEndianInputIsZeroFilled : Obligations.ShortLittleEndianInputIsZeroFilled :=
  fun bytes h => ⟨unpackLE_append_zeros (by omega), by rw [unpackLE_toNat h, numberLE_eq_sum]⟩

end

section
/-! Programs on the port (R230, R231, R325). Two facts carry them: what one instruction writes depends on its sources
alone (`exec_sameWrites`), and what a run does to the registers, STATUS and the responses depends on neither the
requests behind it nor the responses before it (`ContinuesFrom`). -/

namespace Sys2Proof.Machine

open Sys2Proof.Claims

/-! ### Equal writes from different states -/

/-- The same writes lead from `s` to `s'` and from `t` to `t'`: each register and each flag ends with one value in
both, or is unchanged in both. -/
structure SameWrites (s s' t t' : State) : Prop where
  reg  (r : RegIdx) : s'.reg r = t'.reg r ∨ s'.reg r = s.reg r ∧ t'.reg r = t.reg r
  flag (f : Flag) : s'.status.flag f = t'.status.flag f ∨
    s'.status.flag f = s.status.flag f ∧ t'.status.flag f = t.status.flag f

theorem SameWrites.refl (s t : State) : SameWrites s s t t := ⟨fun _ => .inr ⟨rfl, rfl⟩, fun _ => .inr ⟨rfl, rfl⟩⟩

namespace SameWrites

variable {s s' t t' : State}

theorem setReg (h : SameWrites s s' t t') (i : RegIdx) (v : U256) : SameWrites s (s'.setReg i v) t (t'.setReg i v) where
  reg r := by
    rcases eq_or_ne i r with rfl | hne
    · left; simp only [reg_setReg_same]
    · simpa only [reg_setReg_other _ _ hne] using h.reg r
  flag := h.flag

theorem setFlag (h : SameWrites s s' t t') (g : Flag) (v : Bool) :
    SameWrites s (s'.setFlag g v) t (t'.setFlag g v) where
  reg := h.reg
  flag f := by
    rcases eq_or_ne g f with rfl | hne
    · left; simp only [setFlag_status, flag_setFlag, if_pos]
    · simpa only [setFlag_status, flag_setFlag, if_neg hne] using h.flag f

theorem foldl_setReg (h : SameWrites s s' t t') (ws : List (RegIdx × U256)) :
    SameWrites s (ws.foldl (fun s p => s.setReg p.1 p.2) s') t (ws.foldl (fun s p => s.setReg p.1 p.2) t') := by
  induction ws generalizing s' t' with
  | nil => exact h
  | cons p ws ih => exact ih (h.setReg p.1 p.2)

theorem foldl_setFlag (h : SameWrites s s' t t') (fs : List (Flag × Bool)) :
    SameWrites s (fs.foldl (fun s p => s.setFlag p.1 p.2) s') t (fs.foldl (fun s p => s.setFlag p.1 p.2) t') := by
  induction fs generalizing s' t' with
  | nil => exact h
  | cons p fs ih => exact ih (h.setFlag p.1 p.2)

theorem performWrites (w : Writes) (s t : State) : SameWrites s (performWrites w s) t (performWrites w t) := by
  have hw := ((SameWrites.refl s t).foldl_setReg w.regs).foldl_setFlag w.flags
  unfold Machine.performWrites
  split
  · exact ⟨hw.reg, hw.flag⟩
  · exact hw

/-- A command that computes the same from both states, and halts in neither. -/
theorem serviceCommand {rs1 rs2 : RegIdx} {f : U256 → U256 → Computed}
    (hf : f (s.reg rs1) (s.reg rs2) = f (t.reg rs1) (t.reg rs2)) (hs : serviceCommand rs1 rs2 f s = .next s')
    (ht : serviceCommand rs1 rs2 f t = .next t') (hs' : s'.status.halted = false) (ht' : t'.status.halted = false) :
    SameWrites s s' t t' := by
  rcases serviceCommand_cases hs with ⟨hh, rfl⟩ | ⟨c, -, -, rfl⟩ | ⟨w, -, hw, rfl⟩
  · exact absurd hs' (by simp [hh])
  · cases hs'
  · rcases serviceCommand_cases ht with ⟨hh, rfl⟩ | ⟨c, -, -, rfl⟩ | ⟨w', -, hw', rfl⟩
    · exact absurd ht' (by simp [hh])
    · cases ht'
    · cases hw.symm.trans (hf.trans hw')
      exact ⟨(performWrites w s t).reg, (performWrites w s t).flag⟩

end SameWrites

theorem serviceIllegal_halts {s s' : State} (h : serviceIllegal s = .next s') : s'.status.halted = true := by
  rcases serviceIllegal_cases h with ⟨hh, rfl⟩ | ⟨-, rfl⟩
  · exact hh
  · rfl

theorem sources_expand (i : Instr) : sources i.expand = sources i := by
  rw [sources, expand_expand, sources]

theorem exec_sameWrites_of_ne_exec {i : Instr} (hi : ∀ w, i ≠ .exec w) {s s' t t' : State}
    (hsrc : ∀ r ∈ sources i, s.reg r = t.reg r) (hs : exec i s = .next s') (ht : exec i t = .next t')
    (hs' : s'.status.halted = false) (ht' : t'.status.halted = false) : SameWrites s s' t t' := by
  have command {rs1 rs2 : RegIdx} {f : U256 → U256 → Computed} (hmem : sources i = [rs1, rs2])
      (h : ∀ u, exec i u = serviceCommand rs1 rs2 f u) : SameWrites s s' t t' := by
    rw [h] at hs ht
    refine .serviceCommand ?_ hs ht hs' ht'
    rw [hsrc rs1 (by simp [hmem]), hsrc rs2 (by simp [hmem])]
  cases i with
  | exec w => exact absurd rfl (hi w)
  | load r e data =>
    rw [exec_load_eq_serviceCommand] at hs ht
    exact .serviceCommand rfl hs ht hs' ht'
  | store | rdstatus => cases hs; cases ht; exact ⟨(SameWrites.refl s t).reg, (SameWrites.refl s t).flag⟩
  | illegal w => exact absurd (serviceIllegal_halts hs) (by simp [hs'])
  | divrem rd rd2 rs1 rs2 =>
    rcases eq_or_ne rd rd2 with rfl | hne
    · rw [exec_divrem_same] at hs
      exact absurd (serviceIllegal_halts hs) (by simp [hs'])
    · exact command rfl fun u => exec_divrem u rd rd2 rs1 rs2 hne
  | add rd rs1 rs2 => exact command rfl (exec_add · rd rs1 rs2)
  | sub rd rs1 rs2 => exact command rfl (exec_sub · rd rs1 rs2)
  | mul rd rs1 rs2 => exact command rfl (exec_mul · rd rs1 rs2)
  | div rd rs1 rs2 => exact command rfl (exec_div · rd rs1 rs2)
  | shl rd rs1 rs2 => exact command rfl (exec_shl · rd rs1 rs2)
  | shr rd rs1 rs2 => exact command rfl (exec_shr · rd rs1 rs2)
  | or rd rs1 rs2 => exact command rfl (exec_or · rd rs1 rs2)
  | setbit rd rs1 rs2 => exact command rfl (exec_setbit · rd rs1 rs2)
  | cmp rs1 rs2 => exact command rfl (exec_cmp · rs1 rs2)
  | bitat rs1 rs2 => exact command rfl (exec_bitat · rs1 rs2)
  | mv rd rs => exact command rfl (exec_mv · rd rs)
  | clr rd => exact command rfl (exec_clr · rd)

/-- R102: what an instruction writes depends on the registers it reads alone, as long as it halts in neither state. -/
theorem exec_sameWrites {i : Instr} {s s' t t' : State} (hsrc : ∀ r ∈ sources i, s.reg r = t.reg r)
    (hs : exec i s = .next s') (ht : exec i t = .next t') (hs' : s'.status.halted = false)
    (ht' : t'.status.halted = false) : SameWrites s s' t t' := by
  rw [← exec_expand] at hs ht
  rw [← sources_expand] at hsrc
  exact exec_sameWrites_of_ne_exec (expand_ne_exec i) hsrc hs ht hs' ht'

/-! ### Instructions on disjoint registers (R231) -/

theorem status_ext {st st' : Status} (hhalted : st.halted = st'.halted) (hfault : st.fault = st'.fault)
    (hflag : ∀ f, st.flag f = st'.flag f) : st = st' := by
  have hlt : st.lt = st'.lt := hflag .lt
  have heq : st.eq = st'.eq := hflag .eq
  have hgt : st.gt = st'.gt := hflag .gt
  have hbit : st.bit = st'.bit := hflag .bit
  cases st; cases st'; simp_all

/-- An instruction that ends in a running core started in one, and raised no fault. -/
theorem exec_running {i : Instr} {s s' : State} (h : exec i s = .next s') (hs' : s'.status.halted = false) :
    s.status.halted = false ∧ s'.status.fault = s.status.fault := by
  rcases exec_completes h with ⟨hh, rfl⟩ | ⟨c, -, rfl⟩ | ⟨w, d, rfl⟩
  · exact absurd hs' (by simp [hh])
  · cases hs'
  · obtain ⟨hhalted, hfault, -⟩ := performWrites_frame w s
    exact ⟨hhalted.symm.trans hs', hfault⟩

/-- The value at one place after two writers in both orders: each writes one value in either order, or leaves the place
alone (`hi`, `hj`). If one of them leaves it alone, the orders agree. -/
theorem orders_agree {α : Type} {v vi vj vij vji : α} (hi : vi = vji ∨ vi = v ∧ vji = vj)
    (hj : vj = vij ∨ vj = v ∧ vij = vi) (hone : (vi = v ∧ vji = vj) ∨ (vj = v ∧ vij = vi)) : vij = vji := by
  rcases hone with ⟨hv, hvj⟩ | ⟨hv, hvi⟩
  · rcases hj with h | ⟨h, h'⟩
    · rw [← h, hvj]
    · rw [h', hv, hvj, h]
  · rcases hi with h | ⟨h, h'⟩
    · rw [← h, hvi]
    · rw [h', hv, hvi, h]

/-! ### Runs beside other requests and after other responses (R325) -/

/-- `t` has the registers and STATUS of `s`, and the responses of `s` after those of an earlier run. -/
structure ContinuesFrom (earlier : List Response) (s t : State) : Prop where
  regs      : t.regs = s.regs
  status    : t.status = s.status
  responses : t.responses = earlier ++ s.responses

/-- The port is empty, and the host's next events are the transactions `ts` and then `rest`. -/
structure Offers (ts : List Transaction) (rest : List HostEvent) (s : State) : Prop where
  idle  : s.idle
  inbox : s.inbox = ts.map .request ++ rest

theorem launch_offers (ts : List Transaction) (s : State) : Offers ts [] (s.launch ts) :=
  ⟨rfl, (List.append_nil _).symm⟩

/-- Every instruction has a next state (R320). -/
theorem exec_total (i : Instr) (s : State) : ∃ s', exec i s = .next s' := by
  cases exec_form i with
  | illegal h => rw [h, serviceIllegal]; split <;> exact ⟨_, rfl⟩
  | read d h => exact ⟨_, h s⟩
  | command rs1 rs2 f h _ =>
    rw [h]
    unfold serviceCommand
    split
    · exact ⟨_, rfl⟩
    · split <;> exact ⟨_, rfl⟩

/-- An instruction sends one response and takes nothing from the inbox (R312, R320). -/
theorem exec_port {i : Instr} {s s' : State} (h : exec i s = .next s') :
    s'.inbox = s.inbox ∧ s'.responses.length = s.responses.length + 1 := by
  rcases exec_completes h with ⟨-, rfl⟩ | ⟨c, -, rfl⟩ | ⟨w, d, rfl⟩
  · exact ⟨rfl, by simp⟩
  · exact ⟨rfl, by simp⟩
  · obtain ⟨-, -, -, hinbox, hresp⟩ := performWrites_frame w s
    exact ⟨hinbox, by simp [hresp]⟩

namespace Offers

variable {t : Transaction} {ts : List Transaction} {rest : List HostEvent} {s : State}

theorem step_eq (h : Offers (t :: ts) rest s) :
    step s = exec (decodeTransaction t) (portIn t (ts.map .request ++ rest) s) := by
  unfold step
  rw [nextTransaction_request h.idle h.inbox, h.inbox]
  rfl

/-- A step answers the first transaction offered, with one response, and the others are still offered. -/
theorem step_next (h : Offers (t :: ts) rest s) :
    ∃ s', step s = .next s' ∧ Offers ts rest s' ∧ s'.responses.length = s.responses.length + 1 := by
  obtain ⟨s', hs⟩ := exec_total (decodeTransaction t) (portIn t (ts.map .request ++ rest) s)
  obtain ⟨hinbox, hresp⟩ := exec_port hs
  exact ⟨s', h.step_eq.trans hs, ⟨exec_idle hs, hinbox⟩, hresp⟩

/-- All the transactions offered are answered, each with one response, and nothing behind them is touched. -/
theorem runSteps_next {ts : List Transaction} {s : State} (h : Offers ts rest s) :
    ∃ s', runSteps ts.length s = .next s' ∧ Offers [] rest s' ∧
      s'.responses.length = s.responses.length + ts.length := by
  induction ts generalizing s with
  | nil => exact ⟨s, rfl, h, rfl⟩
  | cons t ts ih =>
    obtain ⟨s1, h1, hoffer, hlen⟩ := h.step_next
    obtain ⟨s', h', hdone, hlen'⟩ := ih hoffer
    refine ⟨s', (runSteps_succ_next _ h1).trans h', hdone, ?_⟩
    rw [hlen', hlen, List.length_cons]; omega

end Offers

namespace ContinuesFrom

variable {earlier : List Response} {s t : State}

theorem reg (h : ContinuesFrom earlier s t) (r : RegIdx) : t.reg r = s.reg r := by
  rw [State.reg, h.regs, State.reg]

theorem portOut (h : ContinuesFrom earlier s t) (c : ResponseCode) (d : BitVec 256) :
    ContinuesFrom earlier (portOut c d s) (portOut c d t) :=
  { h with responses := by simp [h.responses] }

theorem raiseFault (h : ContinuesFrom earlier s t) (c : FaultCause) :
    ContinuesFrom earlier (raiseFault c s) (raiseFault c t) :=
  { h.portOut .faulted 0 with status := by simp [h.status] }

theorem performWrites (h : ContinuesFrom earlier s t) (w : Writes) :
    ContinuesFrom earlier (performWrites w s) (performWrites w t) := by
  obtain ⟨hhalted, hfault, -, -, hresp⟩ := performWrites_frame w s
  obtain ⟨hhalted', hfault', -, -, hresp'⟩ := performWrites_frame w t
  have hw := SameWrites.performWrites w s t
  refine ⟨regs_ext fun r => ?_, status_ext ?_ ?_ fun f => ?_, ?_⟩
  · rcases hw.reg r with heq | ⟨hs, ht⟩
    · exact heq.symm
    · rw [hs, ht, h.reg]
  · rw [hhalted, hhalted', h.status]
  · rw [hfault, hfault', h.status]
  · rcases hw.flag f with heq | ⟨hs, ht⟩
    · exact heq.symm
    · rw [hs, ht, h.status]
  · rw [hresp, hresp', h.responses]

theorem serviceCommand (h : ContinuesFrom earlier s t) {rs1 rs2 : RegIdx} {f : U256 → U256 → Computed} {s' : State}
    (hs : serviceCommand rs1 rs2 f s = .next s') :
    ∃ t', serviceCommand rs1 rs2 f t = .next t' ∧ ContinuesFrom earlier s' t' := by
  rcases serviceCommand_cases hs with ⟨hh, rfl⟩ | ⟨c, hh, hf, rfl⟩ | ⟨w, hh, hf, rfl⟩
  · exact ⟨_, serviceCommand_halted _ _ _ (h.status ▸ hh), h.portOut .halted 0⟩
  · exact ⟨_, serviceCommand_error (h.status ▸ hh) (by rw [h.reg, h.reg, hf]), h.raiseFault c⟩
  · exact ⟨_, serviceCommand_ok (h.status ▸ hh) (by rw [h.reg, h.reg, hf]), (h.performWrites w).portOut .ok 0⟩

theorem serviceIllegal (h : ContinuesFrom earlier s t) {s' : State} (hs : serviceIllegal s = .next s') :
    ∃ t', serviceIllegal t = .next t' ∧ ContinuesFrom earlier s' t' := by
  rcases serviceIllegal_cases hs with ⟨hh, rfl⟩ | ⟨hh, rfl⟩
  · exact ⟨_, serviceIllegal_halted (h.status ▸ hh), h.portOut .halted 0⟩
  · exact ⟨_, serviceIllegal_running (h.status ▸ hh), h.raiseFault .illegalCommand⟩

theorem exec (h : ContinuesFrom earlier s t) {i : Instr} {s' : State} (hs : exec i s = .next s') :
    ∃ t', exec i t = .next t' ∧ ContinuesFrom earlier s' t' := by
  cases exec_form i with
  | illegal hi => rw [hi] at hs ⊢; exact h.serviceIllegal hs
  | command rs1 rs2 f hf _ => rw [hf] at hs ⊢; exact h.serviceCommand hs
  | read d hd =>
    rw [hd] at hs ⊢
    cases hs
    have hdata : d t.regs t.status = d s.regs s.status := by rw [h.regs, h.status]
    exact ⟨_, rfl, hdata ▸ h.portOut .ok _⟩

/-- The same transactions, offered to both, do the same to both, whatever stands behind them. -/
theorem runSteps {ts : List Transaction} {rest rest' : List HostEvent} {s t s' t' : State}
    (h : ContinuesFrom earlier s t) (hs : Offers ts rest s) (ht : Offers ts rest' t)
    (hs' : runSteps ts.length s = .next s') (ht' : runSteps ts.length t = .next t') : ContinuesFrom earlier s' t' := by
  induction ts generalizing s t with
  | nil => cases hs'; cases ht'; exact h
  | cons u ts ih =>
    obtain ⟨s1, h1, hs1, -⟩ := hs.step_next
    obtain ⟨t1, h2, ht1, -⟩ := ht.step_next
    rw [List.length_cons, runSteps_succ_next _ h1] at hs'
    rw [List.length_cons, runSteps_succ_next _ h2] at ht'
    rw [hs.step_eq] at h1
    rw [ht.step_eq] at h2
    have hin : ContinuesFrom earlier (portIn u (ts.map .request ++ rest) s) (portIn u (ts.map .request ++ rest') t) :=
      ⟨h.regs, h.status, h.responses⟩
    obtain ⟨t2, h2', h12⟩ := hin.exec h1
    cases h2.symm.trans h2'
    exact ih h12 hs1 ht1 hs' ht'

end ContinuesFrom

/-! ### Programs (R230, R231, R325) -/

/-- A program runs to its end, with one response for each transaction. -/
theorem runProgram_next (ts : List Transaction) (s : State) :
    ∃ s', runProgram ts s = .next s' ∧ s'.responses.length = ts.length := by
  obtain ⟨s', h, -, hlen⟩ := (launch_offers ts s).runSteps_next
  exact ⟨s', h, hlen.trans (Nat.zero_add _)⟩

/-- Two programs in sequence: the second runs on from where the first ended (R230). -/
theorem runProgram_append {xs ys : List Transaction} {s s1 s2 : State} (h1 : runProgram xs s = .next s1)
    (h2 : runProgram ys s1 = .next s2) :
    ∃ s3, runProgram (xs ++ ys) s = .next s3 ∧ ContinuesFrom s1.responses s2 s3 := by
  have hboth : Offers xs (ys.map .request) (s.launch (xs ++ ys)) := ⟨rfl, List.map_append⟩
  have hstart : ContinuesFrom [] (s.launch xs) (s.launch (xs ++ ys)) := ⟨rfl, rfl, rfl⟩
  obtain ⟨t1, ht1, hoffer, -⟩ := hboth.runSteps_next
  have hmid := hstart.runSteps (launch_offers xs s) hboth h1 ht1
  have hrest : Offers ys [] t1 := ⟨hoffer.idle, hoffer.inbox.trans (List.append_nil _).symm⟩
  have hagain : ContinuesFrom s1.responses (s1.launch ys) t1 :=
    ⟨hmid.regs, hmid.status, hmid.responses.trans (List.append_nil _).symm⟩
  obtain ⟨s3, hs3, -, -⟩ := hrest.runSteps_next
  refine ⟨s3, ?_, hagain.runSteps (launch_offers ys s1) hrest h2 hs3⟩
  rw [runProgram_eq, List.length_append, runSteps_add ht1, hs3]

/-- An interleaving holds every transaction of every master (R231). -/
theorem Merged.length_eq {ms : List (List Transaction)} {zs : List Transaction} (h : Merged ms zs) :
    zs.length = (ms.map List.length).sum := by
  induction h with
  | done ms hnil => exact (List.sum_eq_zero (by simpa using fun m hm => hnil m hm)).symm
  | take before after t rest zs _ ih =>
    simp only [List.map_append, List.map_cons, List.sum_append, List.sum_cons, List.length_cons] at ih ⊢
    omega

end Sys2Proof.Machine

/-! ### The obligations on programs -/

open Sys2Proof Sys2Proof.Machine Sys2Proof.Claims

/-- Settles O54: each instruction writes the same in both orders, and at most one of
them writes a given register or flag. -/
theorem disjointInstructionsCommute : Obligations.DisjointInstructionsCommute := by
  intro i j s si sj sij sji hdi hdj hi hij hj hji hrunIJ hrunJI
  obtain ⟨hrunI, hfaultIJ⟩ := exec_running hij hrunIJ
  obtain ⟨hrunJ, hfaultJI⟩ := exec_running hji hrunJI
  obtain ⟨-, hfaultI⟩ := exec_running hi hrunI
  obtain ⟨-, hfaultJ⟩ := exec_running hj hrunJ
  have hwi : SameWrites s si sj sji :=
    exec_sameWrites (fun r hr => (exec_reg_other hj fun hd => hdj r hd hr).symm) hi hji hrunI hrunJI
  have hwj : SameWrites s sj si sij :=
    exec_sameWrites (fun r hr => (exec_reg_other hi fun hd => (hdi r hd).2 hr).symm) hj hij hrunJ hrunIJ
  constructor
  · refine regs_ext fun r => orders_agree (hwi.reg r) (hwj.reg r) ?_
    by_cases hr : r ∈ destinations i
    · have hr' : r ∉ destinations j := (hdi r hr).1
      exact .inr ⟨exec_reg_other hj hr', exec_reg_other hij hr'⟩
    · exact .inl ⟨exec_reg_other hi hr, exec_reg_other hji hr⟩
  · intro hflags
    refine status_ext (hrunIJ.trans hrunJI.symm) ?_ fun f => orders_agree (hwi.flag f) (hwj.flag f) ?_
    · rw [hfaultIJ, hfaultI, hfaultJI, hfaultJ]
    · by_cases hf : f ∈ flagsWritten i
      · have hf' : f ∉ flagsWritten j := hflags f hf
        exact .inr ⟨exec_flag_other hj hf', exec_flag_other hij hf'⟩
      · exact .inl ⟨exec_flag_other hi hf, exec_flag_other hji hf⟩

/-- Settles O53: the run of `xs ++ ys` is the run of `xs`, then that of `ys` with the responses of `xs` before its own. -/
theorem programsRunInPortOrder : Obligations.ProgramsRunInPortOrder := by
  intro xs ys s
  obtain ⟨s1, h1, hlen⟩ := runProgram_next xs s
  obtain ⟨s2, h2, -⟩ := runProgram_next ys s1
  obtain ⟨s3, h3, hcont⟩ := runProgram_append h1 h2
  refine ⟨s1, s2, s3, h1, h2, h3, hlen, ?_⟩
  rw [State.observe, hcont.regs, hcont.status, hcont.responses, State.observe]

/-- Settles O55: an interleaving is a program, and as long as the masters' sequences together. -/
theorem everyInterleavingOfMastersRuns : Obligations.EveryInterleavingOfMastersRuns := by
  intro ms zs s h
  obtain ⟨s', hrun, hlen⟩ := runProgram_next zs s
  exact ⟨s', hrun, ⟨zs, h, hrun⟩, hlen.trans h.length_eq⟩

end

section
/-! The encodings of spec/30_encoding.md. A command word is its six fields (`word_eq_iff`), so the words that the formula
of R340 gives are known by their fields (`eq_commandWord_iff`), and the decoder, the four conditions of R334 and the
masks of R332 are all read over fields. -/

namespace Sys2Proof

open Claims

/-! ### A command word is its six fields (R330) -/

theorem word_eq_iff (w v : CommandWord) : w = v ↔
    w.extractLsb' 0 8 = v.extractLsb' 0 8 ∧ w.extractLsb' 8 4 = v.extractLsb' 8 4 ∧
    w.extractLsb' 12 4 = v.extractLsb' 12 4 ∧ w.extractLsb' 16 4 = v.extractLsb' 16 4 ∧
    w.extractLsb' 20 4 = v.extractLsb' 20 4 ∧ w.extractLsb' 24 8 = v.extractLsb' 24 8 := by
  refine ⟨fun h => by subst h; exact ⟨rfl, rfl, rfl, rfl, rfl, rfl⟩, fun h => BitVec.eq_of_toNat_eq ?_⟩
  simp only [BitVec.toNat_eq, BitVec.extractLsb'_toNat, Nat.shiftRight_eq_div_pow] at h
  omega

theorem toFin_eq_iff (b : BitVec 4) (r : RegIdx) : b.toFin = r ↔ b = BitVec.ofFin r :=
  ⟨fun h => h ▸ rfl, fun h => h ▸ rfl⟩

section
variable (w : CommandWord) (r : RegIdx)

theorem wordRd_eq_iff : wordRd w = r ↔ w.extractLsb' 8 4 = BitVec.ofFin r := toFin_eq_iff _ r
theorem wordRs1_eq_iff : wordRs1 w = r ↔ w.extractLsb' 12 4 = BitVec.ofFin r := toFin_eq_iff _ r
theorem wordRs2_eq_iff : wordRs2 w = r ↔ w.extractLsb' 16 4 = BitVec.ofFin r := toFin_eq_iff _ r
theorem wordRd2_eq_iff : wordRd2 w = r ↔ w.extractLsb' 20 4 = BitVec.ofFin r := toFin_eq_iff _ r

end

/-- The formula of R340, read backwards: which words it gives. -/
theorem eq_commandWord_iff (o : BitVec 8) {op w : CommandWord} {rd rd2 rs1 rs2 : RegIdx} (ho : op = o.setWidth 32) :
    w = commandWord op rd rd2 rs1 rs2 ↔ wordOpcode w = o ∧ wordRd w = rd ∧ wordRs1 w = rs1 ∧ wordRs2 w = rs2 ∧
      wordRd2 w = rd2 ∧ wordReserved w = 0 := by
  obtain ⟨f0, f1, f2, f3, f4, f5⟩ := commandWord_fields o rd rd2 rs1 rs2 ho
  rw [word_eq_iff, f0, f1, f2, f3, f4, f5, wordRd_eq_iff, wordRs1_eq_iff, wordRs2_eq_iff, wordRd2_eq_iff]
  rfl

theorem and_ones4 (b : BitVec 4) : b &&& 15#4 = b := BitVec.and_allOnes
theorem and_ones8 (b : BitVec 8) : b &&& 255#8 = b := BitVec.and_allOnes

/-- A mask over an opcode compares the fields that the mask covers. -/
theorem and_mask_eq_iff (o : BitVec 8) {op : CommandWord} (w m : CommandWord) (ho : op = o.setWidth 32) :
    w &&& m = op ↔
      w.extractLsb' 0 8 &&& m.extractLsb' 0 8 = o ∧ w.extractLsb' 8 4 &&& m.extractLsb' 8 4 = 0 ∧
      w.extractLsb' 12 4 &&& m.extractLsb' 12 4 = 0 ∧ w.extractLsb' 16 4 &&& m.extractLsb' 16 4 = 0 ∧
      w.extractLsb' 20 4 &&& m.extractLsb' 20 4 = 0 ∧ w.extractLsb' 24 8 &&& m.extractLsb' 24 8 = 0 := by
  have hop : op = commandWord op 0 0 0 0 := by simp [commandWord, placeReg]
  obtain ⟨f0, f1, f2, f3, f4, f5⟩ := commandWord_fields o 0 0 0 0 ho
  rw [hop, word_eq_iff, f0, f1, f2, f3, f4, f5]
  simp only [BitVec.extractLsb'_and]
  rfl

/-! The masks of R332 select the fields that R332 fixes in each class. -/

section
variable (o : BitVec 8) {op w : CommandWord} (ho : op = o.setWidth 32)
include ho

theorem and_maskR3_eq_iff : w &&& 0xFFF000FF = op ↔ wordOpcode w = o ∧ wordRd2 w = 0 ∧ wordReserved w = 0 := by
  rw [and_mask_eq_iff o w _ ho, wordRd2_eq_iff]
  simp [wordOpcode, wordReserved, and_ones4, and_ones8]

theorem and_maskR2_eq_iff :
    w &&& 0xFFF00FFF = op ↔ wordOpcode w = o ∧ wordRd w = 0 ∧ wordRd2 w = 0 ∧ wordReserved w = 0 := by
  rw [and_mask_eq_iff o w _ ho, wordRd_eq_iff, wordRd2_eq_iff]
  simp [wordOpcode, wordReserved, and_ones4, and_ones8]

theorem and_maskR4_eq_iff : w &&& 0xFF0000FF = op ↔ wordOpcode w = o ∧ wordReserved w = 0 := by
  rw [and_mask_eq_iff o w _ ho]
  simp [wordOpcode, wordReserved, and_ones8]

end

/-! ### What a legal word decodes to (R335) -/

theorem decodeR3_ok_iff {w : CommandWord} {op : RegIdx → RegIdx → RegIdx → Instr} {i : Instr} :
    decodeR3 w op = .ok i ↔ wordRd2 w = 0 ∧ i = op (wordRd w) (wordRs1 w) (wordRs2 w) := by
  by_cases h : wordRd2 w = 0 <;> simp [decodeR3, h, eq_comm]

theorem decodeR4_ok_iff {w : CommandWord} {op : RegIdx → RegIdx → RegIdx → RegIdx → Instr} {i : Instr} :
    decodeR4 w op = .ok i ↔ wordRd w ≠ wordRd2 w ∧ i = op (wordRd w) (wordRd2 w) (wordRs1 w) (wordRs2 w) := by
  by_cases h : wordRd w = wordRd2 w <;> simp [decodeR4, h, eq_comm]

theorem decodeR2_ok_iff {w : CommandWord} {op : RegIdx → RegIdx → Instr} {i : Instr} :
    decodeR2 w op = .ok i ↔ (wordRd w = 0 ∧ wordRd2 w = 0) ∧ i = op (wordRs1 w) (wordRs2 w) := by
  by_cases h : wordRd w = 0 ∧ wordRd2 w = 0
  · simp [decodeR2, h, eq_comm]
  · have hbad : wordRd w ≠ 0 ∨ wordRd2 w ≠ 0 := not_and_or.1 h
    simp [decodeR2, h, hbad]

theorem commandWord_of_fields {w : CommandWord} {n : Nat} {rd rd2 : RegIdx} (hop : (wordOpcode w).toNat = n)
    (hrd : wordRd w = rd) (hrd2 : wordRd2 w = rd2) (hres : wordReserved w = 0) :
    commandWord (BitVec.ofNat 32 n) rd rd2 (wordRs1 w) (wordRs2 w) = w := by
  have ho : BitVec.ofNat 32 n = (wordOpcode w).setWidth 32 := by rw [← hop, BitVec.ofNat_toNat]
  exact ((eq_commandWord_iff _ ho).2 ⟨rfl, hrd, rfl, rfl, hrd2, hres⟩).symm

/-- A legal word is the word of the instruction that it decodes to, a well-formed one (R335, R340). -/
theorem encodeCommand_of_decodeWord {w : CommandWord} {i : Instr} (h : decodeWord w = .ok i) :
    encodeCommand i = w ∧ i.wellFormed = true ∧ ∀ v, i ≠ .illegal v := by
  unfold decodeWord at h
  split at h
  · cases h
  · next hres =>
    replace hres := not_not.1 hres
    split at h
    case h_5 hop =>
      obtain ⟨hne, rfl⟩ := decodeR4_ok_iff.1 h
      exact ⟨commandWord_of_fields hop rfl rfl hres, decide_eq_true hne, fun _ => Instr.noConfusion⟩
    case h_9 hop | h_10 hop =>
      obtain ⟨⟨hrd, hrd2⟩, rfl⟩ := decodeR2_ok_iff.1 h
      exact ⟨commandWord_of_fields hop hrd hrd2 hres, rfl, fun _ => Instr.noConfusion⟩
    case h_12 => cases h
    case h_1 hop | h_2 hop | h_3 hop | h_4 hop | h_6 hop | h_7 hop | h_8 hop | h_11 hop =>
      obtain ⟨hrd2, rfl⟩ := decodeR3_ok_iff.1 h
      exact ⟨commandWord_of_fields hop rfl hrd2 hres, rfl, fun _ => Instr.noConfusion⟩

theorem encodeCommand_decodeCommand (w : CommandWord) : encodeCommand (decodeCommand w) = w := by
  unfold decodeCommand
  split
  · next h => exact (encodeCommand_of_decodeWord h).1
  · rfl

/-! ### Which words are illegal (R334) -/

theorem wordOpcode_toNat (w : CommandWord) : (wordOpcode w).toNat = w.toNat % 2 ^ 8 := by
  simp [wordOpcode]

theorem wordRd_val (w : CommandWord) : (wordRd w).val = w.toNat / 2 ^ 8 % 2 ^ 4 := by
  simp [wordRd, Nat.shiftRight_eq_div_pow]

theorem wordRd2_val (w : CommandWord) : (wordRd2 w).val = w.toNat / 2 ^ 20 % 2 ^ 4 := by
  simp [wordRd2, Nat.shiftRight_eq_div_pow]

theorem wordReserved_toNat (w : CommandWord) : (wordReserved w).toNat = w.toNat / 2 ^ 24 := by
  have := w.isLt
  rw [wordReserved, BitVec.extractLsb'_toNat, Nat.shiftRight_eq_div_pow]
  omega

theorem illegalNumber_iff_fields (w : CommandWord) : illegalNumber w.toNat ↔
    ((wordOpcode w).toNat = 0 ∨ 12 ≤ (wordOpcode w).toNat) ∨ wordReserved w ≠ 0 ∨
      (((wordOpcode w).toNat ≠ 5 ∧ wordRd2 w ≠ 0) ∨
        (((wordOpcode w).toNat = 9 ∨ (wordOpcode w).toNat = 10) ∧ wordRd w ≠ 0)) ∨
      ((wordOpcode w).toNat = 5 ∧ wordRd w = wordRd2 w) := by
  have hres : wordReserved w ≠ 0 ↔ w.toNat / 2 ^ 24 ≠ 0 := by
    rw [← wordReserved_toNat, ne_eq, BitVec.toNat_eq]; rfl
  simp only [illegalNumber, wordOpcode_toNat, hres, ne_eq, Fin.ext_iff, wordRd_val, wordRd2_val, Fin.val_zero]

/-- The two wordings of R334 agree. -/
theorem illegalWord_iff (w : CommandWord) : illegalWord w = true ↔ illegalNumber w.toNat := by
  have := w.isLt
  simp only [illegalWord, illegalNumber, Bool.or_eq_true, decide_eq_true_eq, ne_eq, BitVec.toNat_eq, BitVec.le_def,
    BitVec.extractLsb'_toNat, Nat.shiftRight_eq_div_pow, BitVec.toNat_ofNat]
  omega

/-- The decoder of R335 refuses a word by the conditions of R334. -/
theorem decodeWord_ok_iff_legal (w : CommandWord) : (∃ i, decodeWord w = .ok i) ↔ ¬ illegalNumber w.toNat := by
  rw [illegalNumber_iff_fields]
  unfold decodeWord
  split
  · next hres => simp [hres]
  · next hres =>
    replace hres := not_not.1 hres
    split
    case h_5 hop => simp [decodeR4_ok_iff, hop, hres]
    case h_9 hop | h_10 hop => simp [decodeR2_ok_iff, hop, hres, and_comm]
    case h_12 =>
      -- No opcode from 1 to 11 is outside R333's map.
      have hout : (wordOpcode w).toNat = 0 ∨ 12 ≤ (wordOpcode w).toNat := by
        simp only [imp_false] at *
        omega
      simp [hout]
    case h_1 hop | h_2 hop | h_3 hop | h_4 hop | h_6 hop | h_7 hop | h_8 hop | h_11 hop =>
      simp [decodeR3_ok_iff, hop, hres]

theorem decodeCommand_eq_illegal_iff (w : CommandWord) : decodeCommand w = .illegal w ↔ illegalNumber w.toNat := by
  have hlegal := decodeWord_ok_iff_legal w
  unfold decodeCommand
  split
  · next i h =>
    obtain ⟨-, -, hne⟩ := encodeCommand_of_decodeWord h
    exact iff_of_false (hne w) (hlegal.1 ⟨i, h⟩)
  · next h => exact iff_of_true rfl (not_not.1 fun hn => by simpa [h] using hlegal.2 hn)

theorem decodeCommand_wellFormed (w : CommandWord) : (decodeCommand w).wellFormed = true := by
  have hillegal := decodeCommand_eq_illegal_iff w
  unfold decodeCommand at hillegal ⊢
  split at hillegal
  · next h =>
    obtain ⟨-, hwf, -⟩ := encodeCommand_of_decodeWord h
    exact hwf
  · exact (illegalWord_iff w).2 (hillegal.1 rfl)

/-! ### Decoding an encoded command -/

theorem decodeCommand_of_ok {w : CommandWord} {i : Instr} (h : decodeWord w = .ok i) : decodeCommand w = i := by
  simp [decodeCommand, h]

/-! An encoded word of each class decodes to its opcode's instruction `mk`. That R333 maps the opcode `o` to `mk` is the
hypothesis `hmap`, read off the decoder's definition where `o` and `mk` are given. -/

section
variable (o : BitVec 8) {op : CommandWord} (ho : op = o.setWidth 32) (rd rd2 rs1 rs2 : RegIdx)
include ho

theorem decodeCommand_R3 (mk : RegIdx → RegIdx → RegIdx → Instr)
    (hmap : ∀ w, wordOpcode w = o → wordReserved w = 0 → decodeWord w = decodeR3 w mk := by
      simp +contextual [decodeWord]) : decodeCommand (commandWord op rd 0 rs1 rs2) = mk rd rs1 rs2 := by
  obtain ⟨hop, hrd, hrs1, hrs2, hrd2, hres⟩ := (eq_commandWord_iff o ho).1 (rfl : commandWord op rd 0 rs1 rs2 = _)
  refine decodeCommand_of_ok ((hmap _ hop hres).trans (decodeR3_ok_iff.2 ⟨hrd2, ?_⟩))
  rw [hrd, hrs1, hrs2]

theorem decodeCommand_R4 (mk : RegIdx → RegIdx → RegIdx → RegIdx → Instr) (hne : rd ≠ rd2)
    (hmap : ∀ w, wordOpcode w = o → wordReserved w = 0 → decodeWord w = decodeR4 w mk := by
      simp +contextual [decodeWord]) : decodeCommand (commandWord op rd rd2 rs1 rs2) = mk rd rd2 rs1 rs2 := by
  obtain ⟨hop, hrd, hrs1, hrs2, hrd2, hres⟩ := (eq_commandWord_iff o ho).1 (rfl : commandWord op rd rd2 rs1 rs2 = _)
  refine decodeCommand_of_ok ((hmap _ hop hres).trans (decodeR4_ok_iff.2 ⟨?_, ?_⟩))
  · rwa [hrd, hrd2]
  · rw [hrd, hrs1, hrs2, hrd2]

theorem decodeCommand_R2 (mk : RegIdx → RegIdx → Instr)
    (hmap : ∀ w, wordOpcode w = o → wordReserved w = 0 → decodeWord w = decodeR2 w mk := by
      simp +contextual [decodeWord]) : decodeCommand (commandWord op 0 0 rs1 rs2) = mk rs1 rs2 := by
  obtain ⟨hop, hrd, hrs1, hrs2, hrd2, hres⟩ := (eq_commandWord_iff o ho).1 (rfl : commandWord op 0 0 rs1 rs2 = _)
  refine decodeCommand_of_ok ((hmap _ hop hres).trans (decodeR2_ok_iff.2 ⟨⟨hrd, hrd2⟩, ?_⟩))
  rw [hrs1, hrs2]

end

theorem decodeCommand_encodeCommand {i : Instr} (hc : i.isCommand = true) (hwf : i.wellFormed = true) :
    decodeCommand (encodeCommand i) = i.expand := by
  cases i with
  | load | store | exec | rdstatus => cases hc
  | illegal w => exact (decodeCommand_eq_illegal_iff w).2 ((illegalWord_iff w).1 hwf)
  | add rd rs1 rs2 => exact decodeCommand_R3 0x01 rfl rd rs1 rs2 .add
  | sub rd rs1 rs2 => exact decodeCommand_R3 0x02 rfl rd rs1 rs2 .sub
  | mul rd rs1 rs2 => exact decodeCommand_R3 0x03 rfl rd rs1 rs2 .mul
  | div rd rs1 rs2 => exact decodeCommand_R3 0x04 rfl rd rs1 rs2 .div
  | divrem rd rd2 rs1 rs2 => exact decodeCommand_R4 0x05 rfl rd rd2 rs1 rs2 .divrem (of_decide_eq_true hwf)
  | shl rd rs1 rs2 => exact decodeCommand_R3 0x06 rfl rd rs1 rs2 .shl
  | shr rd rs1 rs2 => exact decodeCommand_R3 0x07 rfl rd rs1 rs2 .shr
  | or rd rs1 rs2 => exact decodeCommand_R3 0x08 rfl rd rs1 rs2 .or
  | cmp rs1 rs2 => exact decodeCommand_R2 0x09 rfl rs1 rs2 .cmp
  | bitat rs1 rs2 => exact decodeCommand_R2 0x0A rfl rs1 rs2 .bitat
  | setbit rd rs1 rs2 => exact decodeCommand_R3 0x0B rfl rd rs1 rs2 .setbit
  | mv rd rs => exact decodeCommand_R3 0x08 rfl rd rs rs .or
  | clr rd => exact decodeCommand_R3 0x02 rfl rd rd rd .sub

theorem decodeCommand_eq_iff {i : Instr} {w : CommandWord} (hc : i.isCommand = true) (hwf : i.wellFormed = true)
    (hexp : i.expand = i) : decodeCommand w = i ↔ w = encodeCommand i := by
  constructor
  · rintro rfl; exact (encodeCommand_decodeCommand w).symm
  · rintro rfl; exact (decodeCommand_encodeCommand hc hwf).trans hexp

/-! ### The match and mask of each command (R332) -/

section
variable (o : BitVec 8) {op w : CommandWord} (ho : op = o.setWidth 32)
include ho

theorem decodes_R3_iff_mask {mk : RegIdx → RegIdx → RegIdx → Instr}
    (h : ∀ rd rs1 rs2, decodeCommand w = mk rd rs1 rs2 ↔ w = commandWord op rd 0 rs1 rs2) :
    (∃ rd rs1 rs2, decodeCommand w = mk rd rs1 rs2) ↔ w &&& 0xFFF000FF = op := by
  rw [and_maskR3_eq_iff o ho]
  simp [h, eq_commandWord_iff o ho]

theorem decodes_R2_iff_mask {mk : RegIdx → RegIdx → Instr}
    (h : ∀ rs1 rs2, decodeCommand w = mk rs1 rs2 ↔ w = commandWord op 0 0 rs1 rs2) :
    (∃ rs1 rs2, decodeCommand w = mk rs1 rs2) ↔ w &&& 0xFFF00FFF = op := by
  rw [and_maskR2_eq_iff o ho]
  simp [h, eq_commandWord_iff o ho]

end

theorem decodeCommand_eq_divrem_iff {w : CommandWord} {rd rd2 rs1 rs2 : RegIdx} :
    decodeCommand w = .divrem rd rd2 rs1 rs2 ↔ rd ≠ rd2 ∧ w = commandWord 0x05 rd rd2 rs1 rs2 := by
  constructor
  · intro h
    have hwf := decodeCommand_wellFormed w
    rw [h] at hwf
    exact ⟨of_decide_eq_true hwf, (decodeCommand_eq_iff rfl hwf rfl).1 h⟩
  · rintro ⟨hne, hw⟩
    exact (decodeCommand_eq_iff (i := .divrem rd rd2 rs1 rs2) rfl (decide_eq_true hne) rfl).2 hw

theorem decodes_divrem_iff_mask {w : CommandWord} : (∃ rd rd2 rs1 rs2, decodeCommand w = .divrem rd rd2 rs1 rs2) ↔
    w &&& 0xFF0000FF = 0x05 ∧ w.extractLsb' 8 4 ≠ w.extractLsb' 20 4 := by
  have hne : w.extractLsb' 8 4 ≠ w.extractLsb' 20 4 ↔ wordRd w ≠ wordRd2 w :=
    (wordRd_eq_iff w (wordRd2 w)).not.symm
  rw [and_maskR4_eq_iff 0x05 (op := 0x05) rfl, hne]
  simp only [decodeCommand_eq_divrem_iff, eq_commandWord_iff 0x05 (op := 0x05) rfl]
  constructor
  · rintro ⟨rd, rd2, rs1, rs2, hd, hop, rfl, -, -, rfl, hres⟩
    exact ⟨⟨hop, hres⟩, hd⟩
  · rintro ⟨⟨hop, hres⟩, hd⟩
    exact ⟨_, _, _, _, hd, hop, rfl, rfl, rfl, rfl, hres⟩

/-! ### Headers and the kinds of a transaction (R300) -/

section
variable (onExec : CommandWord → Instr) {t : Transaction}

theorem decodeKind_load (h : headerKind t.header = 0) :
    decodeKind onExec t = .load (headerReg t.header) (headerDirection t.header) t.data := by
  simp [decodeKind, h]

theorem decodeKind_store (h : headerKind t.header = 1) :
    decodeKind onExec t = .store (headerReg t.header) (headerDirection t.header) := by
  simp [decodeKind, h]

theorem decodeKind_exec (h : headerKind t.header = 2) : decodeKind onExec t = onExec t.cmd := by
  simp [decodeKind, h]

theorem decodeKind_rdstatus (h : headerKind t.header = 3) : decodeKind onExec t = .rdstatus := by
  simp [decodeKind, h]

end

theorem headerWord_fields (k : BitVec 2) {kind : BitVec 7} (r : RegIdx) (e : Direction) (hk : kind = k.setWidth 7) :
    headerKind (headerWord kind r e) = k ∧ headerReg (headerWord kind r e) = r ∧
      headerDirection (headerWord kind r e) = e := by
  subst hk
  revert k r
  cases e <;> decide

/-- The port gives back the instruction that was sent. -/
theorem decodeTransaction_encode {i : Instr} (h : i.isCommand = false) : decodeTransaction (encode i) = i := by
  cases i with
  | load r e data =>
    obtain ⟨hk, hr, he⟩ := headerWord_fields 0 r e (kind := 0) rfl
    exact (decodeKind_load _ hk).trans (congrArg₂ (Instr.load · · data) hr he)
  | store r e =>
    obtain ⟨hk, hr, he⟩ := headerWord_fields 1 r e (kind := 1) rfl
    exact (decodeKind_store _ hk).trans (congrArg₂ Instr.store hr he)
  | exec w => rfl
  | rdstatus => rfl
  | _ => cases h

theorem decodeTransaction_encode_command {i : Instr} (h : i.isCommand = true) :
    decodeTransaction (encode i) = .exec (encodeCommand i) := by
  cases i with
  | load | store | exec | rdstatus => cases h
  | _ => rfl

theorem decode_encode {i : Instr} (hwf : i.wellFormed = true) : decode (encode i) = i.expand := by
  rw [← expand_decodeTransaction]
  cases hc : i.isCommand with
  | false => rw [decodeTransaction_encode hc]
  | true => rw [decodeTransaction_encode_command hc]; exact decodeCommand_encodeCommand hc hwf

theorem kind_cases : ∀ k : BitVec 2, k = 0 ∨ k = 1 ∨ k = 2 ∨ k = 3 := by decide

/-- Fields that a transaction's kind does not read do not show in the instruction. -/
theorem decodeTransaction_congr {t u : Transaction} (h : agreeOnReadFields t u) :
    decodeTransaction t = decodeTransaction u := by
  obtain ⟨hkind, hload, hstore, hexec⟩ := h
  unfold decodeTransaction
  rcases kind_cases (headerKind t.header) with hk | hk | hk | hk
  · obtain ⟨hheader, hdata⟩ := hload hk
    rw [decodeKind_load _ hk, decodeKind_load _ (hkind ▸ hk), hheader, hdata]
  · rw [decodeKind_store _ hk, decodeKind_store _ (hkind ▸ hk), hstore hk]
  · rw [decodeKind_exec _ hk, decodeKind_exec _ (hkind ▸ hk), hexec hk]
  · rw [decodeKind_rdstatus _ hk, decodeKind_rdstatus _ (hkind ▸ hk)]

end Sys2Proof

namespace Sys2Proof.Machine

open Sys2Proof.Claims

/-! ### The step and the transaction it services (R320, R321) -/

theorem step_request {s : State} {t : Transaction} {rest : List HostEvent} (hidle : s.inService = none)
    (hinbox : s.inbox = .request t :: rest) : step s = exec (decodeTransaction t) (portIn t rest s) :=
  Offers.step_eq (ts := []) ⟨hidle, hinbox⟩

theorem step_inService {s : State} {t : Transaction} (h : s.inService = some t)
    (hnr : ∀ rest, s.inbox ≠ .reset :: rest) : step s = exec (decodeTransaction t) s := by
  unfold step
  rw [nextTransaction_inService h]
  split
  · next rest hi => exact absurd hi (hnr rest)
  · rfl
  · rfl

theorem exec_decodeTransaction_encode {i : Instr} (hwf : i.wellFormed = true) (s : State) :
    exec (decodeTransaction (encode i)) s = exec i s := by
  rw [← exec_expand, expand_decodeTransaction, decode_encode hwf, exec_expand]

/-! ### The response to an instruction (R312, R712) -/

theorem exec_read {i : Instr} (hi : isRead i = true) (s : State) : ∃ d, exec i s = .next (portOut .ok d s) := by
  cases i with
  | store r e => exact ⟨_, rfl⟩
  | rdstatus => exact ⟨_, rfl⟩
  | _ => cases hi

/-- No command is a read, so EXEC is none either. -/
theorem isRead_expand (i : Instr) : isRead i.expand = isRead i := by
  cases i with
  | exec w =>
    have hc := (decodeCommand_command w).1
    show isRead (decodeCommand w) = false
    cases hd : decodeCommand w with
    | store | rdstatus => rw [hd] at hc; cases hc
    | _ => rfl
  | _ => rfl

/-- An illegal word is answered like a command that computes ILLEGAL_COMMAND (R334); the operands named here go
unused. -/
theorem serviceIllegal_eq_serviceCommand (s : State) :
    serviceIllegal s = serviceCommand 0 0 (fun _ _ => .error .illegalCommand) s := rfl

/-- What is no read follows the template of R336: it is refused while HALTED. -/
theorem exec_eq_serviceCommand_of_ne_exec {i : Instr} (hi : ∀ w, i ≠ .exec w) (hr : isRead i = false) :
    ∃ rs1 rs2 f, ∀ s, exec i s = serviceCommand rs1 rs2 f s := by
  cases i with
  | exec w => exact absurd rfl (hi w)
  | store | rdstatus => cases hr
  | load r e data => exact ⟨r, r, _, exec_load_eq_serviceCommand r e data⟩
  | illegal w => exact ⟨0, 0, _, serviceIllegal_eq_serviceCommand⟩
  | divrem rd rd2 rs1 rs2 =>
    rcases eq_or_ne rd rd2 with rfl | hne
    · exact ⟨0, 0, _, fun s => (exec_divrem_same s rd rs1 rs2).trans (serviceIllegal_eq_serviceCommand s)⟩
    · exact ⟨rs1, rs2, _, (exec_divrem · rd rd2 rs1 rs2 hne)⟩
  | add rd rs1 rs2 => exact ⟨rs1, rs2, _, (exec_add · rd rs1 rs2)⟩
  | sub rd rs1 rs2 => exact ⟨rs1, rs2, _, (exec_sub · rd rs1 rs2)⟩
  | mul rd rs1 rs2 => exact ⟨rs1, rs2, _, (exec_mul · rd rs1 rs2)⟩
  | div rd rs1 rs2 => exact ⟨rs1, rs2, _, (exec_div · rd rs1 rs2)⟩
  | shl rd rs1 rs2 => exact ⟨rs1, rs2, _, (exec_shl · rd rs1 rs2)⟩
  | shr rd rs1 rs2 => exact ⟨rs1, rs2, _, (exec_shr · rd rs1 rs2)⟩
  | or rd rs1 rs2 => exact ⟨rs1, rs2, _, (exec_or · rd rs1 rs2)⟩
  | cmp rs1 rs2 => exact ⟨rs1, rs2, _, (exec_cmp · rs1 rs2)⟩
  | bitat rs1 rs2 => exact ⟨rs1, rs2, _, (exec_bitat · rs1 rs2)⟩
  | setbit rd rs1 rs2 => exact ⟨rs1, rs2, _, (exec_setbit · rd rs1 rs2)⟩
  | mv rd rs => exact ⟨rs, rs, _, (exec_mv · rd rs)⟩
  | clr rd => exact ⟨rd, rd, _, (exec_clr · rd)⟩

theorem exec_eq_serviceCommand {i : Instr} (hr : isRead i = false) :
    ∃ rs1 rs2 f, ∀ s, exec i s = serviceCommand rs1 rs2 f s := by
  obtain ⟨rs1, rs2, f, h⟩ := exec_eq_serviceCommand_of_ne_exec (expand_ne_exec i) ((isRead_expand i).trans hr)
  exact ⟨rs1, rs2, f, fun s => (exec_expand i s).symm.trans (h s)⟩

end Sys2Proof.Machine

open Sys2Proof Sys2Proof.Machine Sys2Proof.Claims

/-- Settles O8: the fields of an encoded word are its operands, and R333's map takes its opcode to the instruction. -/
theorem decodeOfEncodeIsTheInstruction : Obligations.DecodeOfEncodeIsTheInstruction :=
  ⟨fun _ => decode_encode, fun _ => decodeTransaction_encode⟩

/-- Settles O6: EXEC has the meaning of its expansion, and every instruction completes. -/
theorem execRunsTheCommandInItsWord : Obligations.ExecRunsTheCommandInItsWord := by
  intro w s
  obtain ⟨s', h⟩ := exec_total (.exec w) s
  exact ⟨s', h, (exec_expand (.exec w) s).trans h⟩

/-- Settles O7: a read answers OK; anything else follows R336's template, which refuses, faults or completes. -/
theorem everyInstructionIsAnsweredOnce : Obligations.EveryInstructionIsAnsweredOnce := by
  intro i s
  cases hr : isRead i with
  | true =>
    obtain ⟨d, h⟩ := exec_read hr s
    exact ⟨_, _, h, rfl, rfl, rfl, by simp, by simp, by simp⟩
  | false =>
    obtain ⟨s', h⟩ := exec_total i s
    obtain ⟨rs1, rs2, f, hcmd⟩ := exec_eq_serviceCommand hr
    rcases serviceCommand_cases ((hcmd s).symm.trans h) with ⟨hh, rfl⟩ | ⟨c, hh, -, rfl⟩ | ⟨w, hh, -, rfl⟩
    · exact ⟨_, _, h, rfl, rfl, rfl, by simp [hh], by simp [hh], by simp⟩
    · exact ⟨_, _, h, rfl, rfl, rfl, by simp [hh], by simp [hh], by simp⟩
    · obtain ⟨hhalted, -, -, hinbox, hresp⟩ := performWrites_frame w s
      exact ⟨_, { code := .ok, rdata := 0 }, h, by rw [portOut_responses, hresp], rfl, hinbox, by simp [hhalted, hh],
        by simp [hh], by simp⟩

/-- Settles O9. -/
theorem encodeOfDecodedWordIsTheWord : Obligations.EncodeOfDecodedWordIsTheWord := encodeCommand_decodeCommand

/-- Settles O10: the decoder and the well-formedness check both test R334's conditions, and an illegal word in an EXEC
expands to `illegal`. -/
theorem illegalWordsRaiseIllegalCommand : Obligations.IllegalWordsRaiseIllegalCommand := by
  refine fun w => ⟨decodeCommand_eq_illegal_iff w, illegalWord_iff w, fun hw s hrun => ?_⟩
  have hexpand : (Instr.exec w).expand = .illegal w := (decodeCommand_eq_illegal_iff w).2 hw
  have hillegal : exec (.illegal w) s = .next (raiseFault .illegalCommand s) := serviceIllegal_running hrun
  exact ⟨by rw [← exec_expand, hexpand, hillegal], hillegal⟩

/-- Settles O11: a command's words are those with its opcode and 0 in the fields that its class leaves unused, and a
mask compares just these fields. -/
theorem commandsMatchTheirMasks : Obligations.CommandsMatchTheirMasks := fun _ =>
  ⟨decodes_R3_iff_mask 0x01 rfl fun _ _ _ => decodeCommand_eq_iff rfl rfl rfl,
   decodes_R3_iff_mask 0x02 rfl fun _ _ _ => decodeCommand_eq_iff rfl rfl rfl,
   decodes_R3_iff_mask 0x03 rfl fun _ _ _ => decodeCommand_eq_iff rfl rfl rfl,
   decodes_R3_iff_mask 0x04 rfl fun _ _ _ => decodeCommand_eq_iff rfl rfl rfl,
   decodes_divrem_iff_mask,
   decodes_R3_iff_mask 0x06 rfl fun _ _ _ => decodeCommand_eq_iff rfl rfl rfl,
   decodes_R3_iff_mask 0x07 rfl fun _ _ _ => decodeCommand_eq_iff rfl rfl rfl,
   decodes_R3_iff_mask 0x08 rfl fun _ _ _ => decodeCommand_eq_iff rfl rfl rfl,
   decodes_R2_iff_mask 0x09 rfl fun _ _ => decodeCommand_eq_iff rfl rfl rfl,
   decodes_R2_iff_mask 0x0A rfl fun _ _ => decodeCommand_eq_iff rfl rfl rfl,
   decodes_R3_iff_mask 0x0B rfl fun _ _ _ => decodeCommand_eq_iff rfl rfl rfl⟩

/-- Settles O12: the two transactions decode alike, and no instruction reads what is in service. -/
theorem ignoredFieldsHaveNoEffect : Obligations.IgnoredFieldsHaveNoEffect := by
  intro t u h
  have hdec := decodeTransaction_congr h
  refine ⟨hdec, fun s rest hidle => ?_⟩
  have hstep (v : Transaction) : step { s with inbox := .request v :: rest } =
      exec (decodeTransaction v) { s with inbox := rest } :=
    (step_request (s := { s with inbox := .request v :: rest }) hidle rfl).trans
      (exec_inService (decodeTransaction v) (some v) { s with inbox := rest })
  obtain ⟨s', hs⟩ := exec_total (decodeTransaction t) { s with inbox := rest }
  exact ⟨s', (hstep t).trans hs, (hstep u).trans (hdec ▸ hs)⟩

/-- Settles O3. -/
theorem stepServicesOneTransaction : Obligations.StepServicesOneTransaction :=
  fun _ _ => ⟨fun _ => step_request, step_inService⟩

/-- Settles O4: decoding gives the instruction's expansion, which has its meaning. -/
theorem stepRunsTheEncodedInstruction : Obligations.StepRunsTheEncodedInstruction := by
  intro i s rest hwf hidle hinbox
  rw [step_request hidle hinbox, exec_decodeTransaction_encode hwf]

/-- Settles O13. -/
theorem writtenOutWordsDecode : Obligations.WrittenOutWordsDecode := by
  unfold Obligations.WrittenOutWordsDecode
  decide

end

section
/-! The signal-level binding (R322), edge by edge. A request and the edges after it are one countdown (`awaiting`), which
ends in the transaction's effect. -/

namespace Sys2Proof.Machine

theorem handshakeBroken_iff (p : PinsIn) (o : Option RequestPins) :
    handshakeBroken p o = true ↔ ∃ q, o = some q ∧ (p.reqValid = false ∨ p.req ≠ q) := by
  cases o <;> simp [handshakeBroken]

/-- A completion answers a next state, as every instruction does (R320). -/
theorem complete_total (offer : Option RequestPins) (core : State) : ∃ c', complete offer core = .next c' := by
  unfold complete
  split
  · exact ⟨_, rfl⟩
  · next t _ =>
    obtain ⟨s', h⟩ := exec_total (decodeTransaction t) core
    exact ⟨_, by rw [h]⟩

theorem complete_next {offer : Option RequestPins} {core core' : State} {t : Transaction}
    (ht : core.inService = some t) (h : exec (decodeTransaction t) core = .next core') :
    complete offer core = .next { core := core', phase := .responding, offer := offer } := by
  simp [complete, ht, h]

section
variable {p : PinsIn} {c : ClockState} (hrst : p.rst = false)
include hrst

theorem clockEdge_broken (h : handshakeBroken p c.offer = true) : clockEdge p c = .refused .handshakeViolation := by
  simp [clockEdge, hrst, h]

variable (hheld : handshakeBroken p c.offer = false)
include hheld

theorem clockEdge_total : ∃ c', clockEdge p c = .next c' := by
  simp only [clockEdge, hrst, hheld, Bool.false_eq_true, if_false]
  split
  case h_1 => exact ⟨_, rfl⟩
  case h_2 =>
    split
    · split
      · exact complete_total _ _
      · exact ⟨_, rfl⟩
    · exact ⟨_, rfl⟩
  case h_3 =>
    split
    · exact complete_total _ _
    · exact ⟨_, rfl⟩
  case h_4 => split <;> exact ⟨_, rfl⟩

theorem clockEdge_responding (hphase : c.phase = .responding) :
    clockEdge p c = .next { c with phase := if p.rspReady then .ready else .responding, offer := offerOf p } := by
  cases hp : p.rspReady <;> simp [clockEdge, hrst, hheld, hphase, hp]

end

/-! ### A request and the edges up to its response (R322, R830) -/

/-- The block with a request in service, `n` edges before its response, and no other request on offer. -/
def servicing (core : State) (n : Nat) : ClockState := { core := core, phase := .servicing n, offer := none }

/-- What an edge answers when `n` edges are left after it: with none left, the request takes effect. -/
def awaiting (core : State) (n : Nat) : Host.Outcome ClockState Fault Refusal :=
  if n = 0 then complete none core else .next (servicing core n)

/-- The edge that takes a request of `n + 1` cycles. -/
theorem clockEdge_request {p : PinsIn} {c : ClockState} {n : Nat} (hphase : c.phase = .ready) (hrst : p.rst = false)
    (hreq : p.reqValid = true) (hheld : handshakeBroken p c.offer = false)
    (hn : n + 1 = latency p.req.transaction (portIn p.req.transaction c.core.inbox c.core)) :
    clockEdge p c = awaiting (portIn p.req.transaction c.core.inbox c.core) n := by
  simp [clockEdge, hphase, hrst, hreq, hheld, ← hn, servicing, awaiting]

/-- A later edge, with nothing offered. -/
theorem clockEdge_servicing {q : PinsIn} (hrst : q.rst = false) (hreq : q.reqValid = false) (core : State) (n : Nat) :
    clockEdge q (servicing core (n + 1)) = awaiting core n := by
  simp [clockEdge, servicing, awaiting, handshakeBroken, offerOf, hrst, hreq]

theorem clockRun_singleton (p : PinsIn) (c : ClockState) : clockRun [p] c = clockEdge p c := by
  unfold clockRun
  cases clockEdge p c <;> rfl

theorem clockRun_cons {p : PinsIn} {ps : List PinsIn} {c c' : ClockState} (h : clockEdge p c = .next c') :
    clockRun (p :: ps) c = clockRun ps c' := by
  simp [clockRun, h]

/-- Each edge with nothing offered takes one from the edges left. -/
theorem clockRun_awaiting {qs : List PinsIn} (hq : ∀ q ∈ qs, q.rst = false ∧ q.reqValid = false) {p : PinsIn}
    {c : ClockState} {core : State} {n : Nat} (h : clockEdge p c = awaiting core (n + qs.length)) :
    clockRun (p :: qs) c = awaiting core n := by
  induction qs generalizing p c with
  | nil => exact (clockRun_singleton p c).trans h
  | cons q qs ih =>
    obtain ⟨⟨hrst, hreq⟩, hqs⟩ := List.forall_mem_cons.1 hq
    exact (clockRun_cons h).trans (ih hqs (clockEdge_servicing hrst hreq core (n + qs.length)))

end Sys2Proof.Machine

open Sys2Proof Sys2Proof.Machine Sys2Proof.Claims

/-- Settles O56: every edge of the request takes one from the edges left, and with none left the request takes
effect. -/
theorem clockedRequestMatchesTheTransaction : Obligations.ClockedRequestMatchesTheTransaction := by
  intro c p ps s' hphase hrst hreq hheld hidle hlat hexec
  have hrequest := clockEdge_request hphase hrst hreq hheld hlat
  constructor
  · have hrun := clockRun_awaiting (n := 0) hidle (by rwa [Nat.zero_add])
    have hresp : s'.responses.getLast? ≠ none := by
      have hlen := (exec_port hexec).2
      rw [ne_eq, List.getLast?_eq_none_iff, ← List.length_eq_zero_iff, hlen]
      exact Nat.succ_ne_zero _
    exact ⟨_, hrun.trans (complete_next rfl hexec), rfl, rfl, hresp⟩
  · intro k hk
    have htake : ∀ q ∈ ps.take k, q.rst = false ∧ q.reqValid = false :=
      fun q hq => hidle q (List.mem_of_mem_take hq)
    have hrun := clockRun_awaiting (n := ps.length - k) htake
      (by rwa [List.length_take_of_le hk.le, Nat.sub_add_cancel hk.le])
    have hleft : ps.length - k ≠ 0 := by omega
    exact ⟨_, hrun.trans (if_neg hleft), rfl⟩

/-- Settles O58: apart from a broken handshake, an edge refuses nothing, since a completion answers a next state. -/
theorem onlyABrokenHandshakeIsRefused : Obligations.OnlyABrokenHandshakeIsRefused := by
  intro c p hrst
  constructor
  · intro hbroken
    exact clockEdge_broken hrst ((handshakeBroken_iff p c.offer).2 hbroken)
  · intro hheld
    refine clockEdge_total hrst (Bool.eq_false_iff.2 fun h => ?_)
    obtain ⟨q, hq, hdropped⟩ := (handshakeBroken_iff p c.offer).1 h
    obtain ⟨hvalid, hsame⟩ := hheld q hq
    exact hdropped.elim (by simp [hvalid]) (absurd hsame)

/-- Settles O59. -/
theorem responseIsHeldUntilItIsTaken : Obligations.ResponseIsHeldUntilItIsTaken := by
  intro c p hphase hrst hheld
  refine ⟨_, clockEdge_responding hrst hheld hphase, rfl, fun hwait => ?_, fun htake => ?_⟩
  · simp [pinsOut, hwait, hphase]
  · simp [pinsOut, htake]

end

section
/-! The transactions and commands of spec/40_representation.md. LOAD and STORE are byte sums over the packings of
spec/20_memory.md. BITAT and SETBIT work in one limb each, which is the same as working on the whole value. -/

namespace Sys2Proof.Machine

/-! ### The bytes of a transfer as sums and digits (R211, R214, R217) -/

/-- R211: the first byte is the most significant. -/
theorem numberLE_reverse_eq_sum (bs : List Byte) :
    numberLE bs.reverse = ∑ k ∈ Finset.range bs.length, (bs.getD k 0).toNat * 256 ^ (bs.length - 1 - k) := by
  rw [numberLE_eq_sum, List.length_reverse, ← Finset.sum_range_reflect]
  refine Finset.sum_congr rfl fun k hk => ?_
  have hk : k < bs.length := Finset.mem_range.1 hk
  have hback : bs.length - 1 - (bs.length - 1 - k) = k := by omega
  rw [List.getD_reverse _ (by omega), hback]

theorem bytesOfLanes_getD (data : BitVec 256) {k : Nat} (hk : k < 32) :
    (bytesOfLanes data).getD k 0 = data.extractLsb' (8 * k) 8 := by
  simp [bytesOfLanes, hk]

theorem unpackBE_bytesOfLanes_toNat (data : BitVec 256) : (unpackBE (bytesOfLanes data)).toNat =
    ∑ k ∈ Finset.range 32, (data.extractLsb' (8 * k) 8).toNat * 256 ^ (31 - k) := by
  rw [unpackBE_eq_unpackLE_reverse (bytesOfLanes_length data), unpackLE_toNat (by simp), numberLE_reverse_eq_sum,
    bytesOfLanes_length]
  exact Finset.sum_congr rfl fun k hk => by rw [bytesOfLanes_getD data (Finset.mem_range.1 hk)]

/-- The little-endian value of the data field's bytes is the data field (R212, R217). -/
theorem unpackLE_bytesOfLanes (data : BitVec 256) : unpackLE (bytesOfLanes data) = data := by
  rw [bytesOfLanes_eq_packLE, unpackLE_packLE]

theorem toNat_eq_sum_lanes (data : BitVec 256) :
    data.toNat = ∑ k ∈ Finset.range 32, (data.extractLsb' (8 * k) 8).toNat * 256 ^ k := by
  conv_lhs => rw [← unpackLE_bytesOfLanes data, unpackLE_toNat (bytesOfLanes_length data).le, numberLE_eq_sum,
    bytesOfLanes_length]
  exact Finset.sum_congr rfl fun k hk => by rw [bytesOfLanes_getD data (Finset.mem_range.1 hk)]

/-- Lane `k` of the data field carries byte `k` (R217). -/
theorem lanesOfBytes_lane {bytes : List Byte} (h : bytes.length = 32) {k : Nat} (hk : k < 32) :
    (lanesOfBytes bytes).extractLsb' (8 * k) 8 = bytes.getD k 0 := by
  rw [← bytesOfLanes_getD _ hk, bytesOfLanes_lanesOfBytes h]

theorem packLE_getD_toNat (v : U256) {k : Nat} (hk : k < 32) :
    ((packLE v).getD k 0).toNat = v.toNat / 2 ^ (8 * k) % 256 := by
  have hbyte : (packLE v).getD k 0 = BitVec.ofNat 8 ((v.toNat >>> (8 * k)) &&& 0xFF) := by simp [packLE, hk]
  rw [hbyte, packLE_byte_toNat, pow_mul]
  rfl

theorem packBE_getD_toNat (v : U256) {k : Nat} (hk : k < 32) :
    ((packBE v).getD k 0).toNat = v.toNat / 2 ^ (8 * (31 - k)) % 256 := by
  rw [packBE_eq_reverse, List.getD_reverse _ (by simpa using hk), packLE_length, packLE_getD_toNat v (by omega)]

/-! ### LOAD (R400) -/

theorem exec_load_running {s : State} (h : s.status.halted = false) (r : RegIdx) (e : Direction) (data : BitVec 256) :
    exec (.load r e data) s = .next (portOut .ok 0 (s.setReg r (unpack e (bytesOfLanes data)))) := by
  rw [exec_load_eq_serviceCommand]
  exact serviceCommand_writesReg h rfl

theorem exec_load_halted {s : State} (h : s.status.halted = true) (r : RegIdx) (e : Direction) (data : BitVec 256) :
    exec (.load r e data) s = .next (refuseHalted s) := by
  rw [exec_load_eq_serviceCommand]
  exact serviceCommand_halted r r _ h

/-! ### The fields of the STATUS word (R120, R121) -/

/-- A flag at its place shows in no field above it. -/
theorem statusBit_field_above {place start : Nat} (h : place < start) (len : Nat) (b : Bool) :
    (statusBit b place).extractLsb' start len = 0 := by
  refine BitVec.eq_of_getLsbD_eq fun i hi => ?_
  have habove : start + i - place ≠ 0 := by omega
  simp [statusBit, BitVec.getLsbD_ofBool, habove]

/-- The FAULT code fills bits [11:8] and no other. -/
theorem faultBits_fields : ∀ c : BitVec 4, (c.setWidth 32 <<< 8).extractLsb' 5 3 = 0 ∧
    (c.setWidth 32 <<< 8).extractLsb' 8 4 = c ∧ (c.setWidth 32 <<< 8).extractLsb' 12 20 = 0 := by decide

/-- From bit 5 on, STATUS shows the FAULT code alone. -/
theorem toWord_field_above_flags (st : Status) {start : Nat} (h : 5 ≤ start) (len : Nat) :
    st.toWord.extractLsb' start len = ((faultField st.fault).setWidth 32 <<< 8).extractLsb' start len := by
  have hflag {place : Nat} (hp : place < 5) (b : Bool) : (statusBit b place).extractLsb' start len = 0#len :=
    statusBit_field_above (by omega) len b
  simp [Status.toWord, BitVec.extractLsb'_or, hflag]

theorem toWord_flags (st : Status) : st.toWord.getLsbD 0 = st.halted ∧ st.toWord.getLsbD 1 = st.lt ∧
    st.toWord.getLsbD 2 = st.eq ∧ st.toWord.getLsbD 3 = st.gt ∧ st.toWord.getLsbD 4 = st.bit := by
  simp [Status.toWord, statusBit]

theorem toWord_reserved (st : Status) : st.toWord.extractLsb' 5 3 = 0 ∧ st.toWord.extractLsb' 12 20 = 0 := by
  obtain ⟨hlow, -, hhigh⟩ := faultBits_fields (faultField st.fault)
  exact ⟨(toWord_field_above_flags st (by decide) 3).trans hlow,
    (toWord_field_above_flags st (by decide) 20).trans hhigh⟩

theorem toWord_fault (st : Status) : st.toWord.extractLsb' 8 4 = faultField st.fault := by
  obtain ⟨-, hcode, -⟩ := faultBits_fields (faultField st.fault)
  exact (toWord_field_above_flags st (by decide) 4).trans hcode

/-! ### One bit of a value, in the limb that holds it (R9, R430, R440) -/

theorem lo_getLsbD (v : U256) {i : Nat} (h : i < 128) : (lo v).getLsbD i = v.toNat.testBit i := by
  simp [lo, h, BitVec.testBit_toNat]

theorem hi_getLsbD (v : U256) {i : Nat} (h : 128 ≤ i) (hlt : i < 256) :
    (hi v).getLsbD (i - 128) = v.toNat.testBit i := by
  have hlimb : i - 128 < 128 := by omega
  simp [hi, BitVec.testBit_toNat, Nat.add_sub_cancel' h, hlimb]

/-- OR works limb by limb: no bit crosses the limb boundary. -/
theorem limbs_or (h l h' l' : Limb) : limbs h l ||| limbs h' l' = limbs (h ||| h') (l ||| l') := BitVec.or_append

/-- OR with a low limb changes the low limb alone; `or_hi` is the same for a high limb. -/
theorem or_lo (v : U256) (m : Limb) : limbs (hi v) (lo v ||| m) = v ||| limbs 0 m := by
  conv_rhs => rw [← limbs_hi_lo v, limbs_or, BitVec.ofNat_eq_ofNat, BitVec.or_zero]

theorem or_hi (v : U256) (m : Limb) : limbs (hi v ||| m) (lo v) = v ||| limbs m 0 := by
  conv_rhs => rw [← limbs_hi_lo v, limbs_or, BitVec.ofNat_eq_ofNat, BitVec.or_zero]

theorem one_shiftLeft_toNat {w i : Nat} (h : i < w) : (1#w <<< i).toNat = 2 ^ i := by
  rw [← BitVec.twoPow_eq, BitVec.toNat_twoPow_of_lt h]

theorem ofNat_two_pow (w i : Nat) : BitVec.ofNat w (2 ^ i) = 1#w <<< i :=
  BitVec.eq_of_toNat_eq (by rw [BitVec.toNat_ofNat, ← BitVec.twoPow_eq, BitVec.toNat_twoPow])

theorem limbs_one_shiftLeft_lo {i : Nat} (h : i < 128) : limbs 0 (1#128 <<< i) = 1#256 <<< i := by
  apply BitVec.eq_of_toNat_eq
  rw [limbs_toNat, one_shiftLeft_toNat h, one_shiftLeft_toNat (by omega)]
  exact Nat.zero_add (2 ^ i)

theorem limbs_one_shiftLeft_hi {i : Nat} (h : 128 ≤ i) (hlt : i < 256) :
    limbs (1#128 <<< (i - 128)) 0 = 1#256 <<< i := by
  apply BitVec.eq_of_toNat_eq
  rw [limbs_toNat, one_shiftLeft_toNat (by omega), one_shiftLeft_toNat hlt, ← pow_add, Nat.sub_add_cancel h]
  exact Nat.add_zero (2 ^ i)

/-! ### BITAT and SETBIT (R430, R440) -/

section
variable (rd : RegIdx) (a : U256) {b : U256}

theorem computeBitat_badIndex (h : 256 ≤ b.toNat) : computeBitat a b = .error .badIndex := if_pos h

theorem computeSetbit_badIndex (h : 256 ≤ b.toNat) : computeSetbit rd a b = .error .badIndex := if_pos h

theorem computeBitat_bit (h : b.toNat < 256) :
    computeBitat a b = writesFlags [(.bit, a.toNat.testBit b.toNat)] := by
  unfold computeBitat
  rw [if_neg (Nat.not_le.2 h)]
  split
  · next hlo => rw [lo_getLsbD a hlo]
  · next hhi => rw [hi_getLsbD a (Nat.not_lt.1 hhi) h]

theorem computeSetbit_value (h : b.toNat < 256) :
    computeSetbit rd a b = writesReg rd (BitVec.ofNat 256 (a.toNat ||| 2 ^ b.toNat)) := by
  rw [BitVec.ofNat_or, BitVec.ofNat_toNat, BitVec.setWidth_eq, ofNat_two_pow]
  unfold computeSetbit
  rw [if_neg (Nat.not_le.2 h)]
  split
  · next hlo => rw [or_lo, limbs_one_shiftLeft_lo hlo]
  · next hhi => rw [or_hi, limbs_one_shiftLeft_hi (Nat.not_lt.1 hhi) h]

end

/-- The bit that SETBIT sets reads 1 (R441). -/
theorem testBit_setbit (a : U256) {i : Nat} (h : i < 256) :
    (BitVec.ofNat 256 (a.toNat ||| 2 ^ i)).toNat.testBit i = true := by
  simp only [BitVec.toNat_ofNat, Nat.testBit_mod_two_pow, Nat.testBit_or, Nat.testBit_two_pow_self, h, decide_true,
    Bool.or_true, Bool.and_true]

end Sys2Proof.Machine

/-! ### The obligations on representation -/

open Sys2Proof Sys2Proof.Machine

/-- Settles O14: the value is a sum over the lanes, and a little-endian LOAD unpacks the data field to itself. -/
theorem loadWritesTheValueOfItsBytes : Obligations.LoadWritesTheValueOfItsBytes := by
  refine fun s r data => ⟨fun hrun => ?_, fun hhalted e => exec_load_halted hhalted r e data⟩
  have hbig := exec_load_running hrun r .big data
  have hlittle := exec_load_running hrun r .little data
  rw [unpack, unpackLE_bytesOfLanes] at hlittle
  exact ⟨⟨_, hbig, unpackBE_bytesOfLanes_toNat data⟩, hlittle, toNat_eq_sum_lanes data⟩

/-- Settles O15: lane `k` of the answer is byte `k` of the packing that the direction chooses. -/
theorem storeReturnsTheBytesOfTheRegister : Obligations.StoreReturnsTheBytesOfTheRegister := by
  intro s r
  refine ⟨⟨_, exec_store s r .big, fun k hk => ?_⟩, ⟨_, exec_store s r .little, fun k hk => ?_⟩⟩
  · rw [lanesOfBytes_lane (pack_length .big _) hk, pack, packBE_getD_toNat _ hk]
  · rw [lanesOfBytes_lane (pack_length .little _) hk, pack, packLE_getD_toNat _ hk]

/-- Settles O20: below 256 the bit of the limb is the bit of the value. -/
theorem bitatReadsTheIndexedBit : Obligations.BitatReadsTheIndexedBit :=
  fun _ _ _ hrun => ⟨fun h => serviceCommand_writesFlags hrun (computeBitat_bit _ h),
    fun h => serviceCommand_error hrun (computeBitat_badIndex _ h)⟩

/-- Settles O21: below 256 the bit set in the limb is `2^index` in the value. -/
theorem setbitSetsTheIndexedBit : Obligations.SetbitSetsTheIndexedBit :=
  fun _ rd _ _ hrun => ⟨fun h => serviceCommand_writesReg hrun (computeSetbit_value rd _ h),
    fun h => serviceCommand_error hrun (computeSetbit_badIndex rd _ h)⟩

/-- Settles O22: SETBIT leaves the index register as it was, so BITAT reads the bit that SETBIT has set. -/
theorem setbitThenBitatReadsOne : Obligations.SetbitThenBitatReadsOne := by
  intro s rd ri hrun hne
  obtain ⟨hset, hsetFault⟩ := setbitSetsTheIndexedBit s rd rd ri hrun
  refine ⟨fun h => ?_, fun h => ⟨hsetFault h, (bitatReadsTheIndexedBit s rd ri hrun).2 h⟩⟩
  have hbitat (v : U256) : exec (.bitat rd ri) (portOut .ok 0 (s.setReg rd v)) =
      .next (portOut .ok 0 ((portOut .ok 0 (s.setReg rd v)).setFlag .bit (v.toNat.testBit (s.reg ri).toNat))) := by
    have hindex : (s.setReg rd v).reg ri = s.reg ri := reg_setReg_other s v hne.symm
    have hread := (bitatReadsTheIndexedBit (portOut .ok 0 (s.setReg rd v)) rd ri hrun).1
    simp only [portOut_reg, reg_setReg_same, hindex] at hread
    exact hread h
  exact ⟨_, _, hset h, hbitat _, testBit_setbit (s.reg rd) h, hrun⟩

/-- Settles O19: a flag lies at its place below bit 5, and the FAULT code in bits [11:8]. -/
theorem rdstatusReturnsTheFieldsOfStatus : Obligations.RdstatusReturnsTheFieldsOfStatus := by
  intro s
  obtain ⟨hhalted, hlt, heq, hgt, hbit⟩ := toWord_flags s.status
  obtain ⟨hlow, hhigh⟩ := toWord_reserved s.status
  refine ⟨_, exec_rdstatus s, hhalted, hlt, heq, hgt, hbit, hlow, hhigh, ?_⟩
  rw [toWord_fault]
  cases s.status.fault with
  | none => rfl
  | some c => cases c <;> rfl

end

section
/-! The adder and the subtracter of spec/41_add_sub.md. Both chains work in limbs; here they are tied to the sum and the
difference of the whole values (R9), from which the commands' effects follow. -/

namespace Sys2Proof.Machine

/-! ### Limbs and the comparator (R9, R660) -/

/-- A number from its limbs, the low one below `2^128`; `limbsOfNat_toNat` needs both below. -/
theorem limbsOfNat_eq_ofNat (h : Nat) {l : Nat} (hl : l < 2 ^ 128) :
    limbsOfNat h l = BitVec.ofNat 256 (h * 2 ^ 128 + l) := by
  apply BitVec.eq_of_toNat_eq
  rw [limbsOfNat, limbs_toNat, BitVec.toNat_ofNat, BitVec.toNat_ofNat, BitVec.toNat_ofNat, Nat.mod_eq_of_lt hl]
  omega

/-- The comparison of the limbs, the high one first, is the comparison of the values (R660, R661). -/
theorem cmp3_eq_compare (a b : U256) : cmp3 a b = compare a.toNat b.toNat := by
  have ha := toNat_eq_limbs a
  have hb := toNat_eq_limbs b
  have hla := (lo a).isLt
  have hlb := (lo b).isLt
  simp only [cmp3, BitVec.lt_def, ne_eq, ← BitVec.toNat_inj]
  symm
  split_ifs with hhi hlo hlo_lt hhi_lt
  · exact Nat.compare_eq_eq.2 (by omega)
  · exact Nat.compare_eq_lt.2 (by omega)
  · exact Nat.compare_eq_gt.2 (by omega)
  · exact Nat.compare_eq_lt.2 (by omega)
  · exact Nat.compare_eq_gt.2 (by omega)

theorem less_iff (a b : U256) : less a b = true ↔ a.toNat < b.toNat := by
  rw [less, decide_eq_true_iff, cmp3_eq_compare, Nat.compare_eq_lt]

/-! ### ADD (R450, R451) -/

/-- The carry chain is the addition of the whole values (R451). -/
theorem computeAdd_eq (rd : RegIdx) (a b : U256) : computeAdd rd a b =
    if 2 ^ 256 ≤ a.toNat + b.toNat then .error .addOverflow
    else writesReg rd (BitVec.ofNat 256 (a.toNat + b.toNat)) := by
  have hvalue : a.toNat + b.toNat = ((hi a).toNat + (hi b).toNat + ((lo a).toNat + (lo b).toNat) / 2 ^ 128) * 2 ^ 128 +
      ((lo a).toNat + (lo b).toNat) % 2 ^ 128 := by
    rw [toNat_eq_limbs a, toNat_eq_limbs b]; omega
  have hlow : ((lo a).toNat + (lo b).toNat) % 2 ^ 128 < 2 ^ 128 := Nat.mod_lt _ (by decide)
  simp only [computeAdd, Nat.shiftRight_eq_div_pow, and_max128, limbsOfNat_eq_ofNat _ hlow, ← hvalue]
  congr 1
  rw [eq_iff_iff]
  omega

theorem computeAdd_error_iff (rd : RegIdx) (a b : U256) :
    computeAdd rd a b = .error .addOverflow ↔ 2 ^ 256 ≤ a.toNat + b.toNat := by
  rw [computeAdd_eq]
  split
  · next h => simp only [h]
  · next h => simp only [h, writesReg, reduceCtorEq]

/-! ### SUB (R470, R471) -/

/-- The low limb of the difference, with the borrow that makes it one. -/
theorem subLow_spec (a b : U256) : (lo b).toNat + (subLow a b).1 = (lo a).toNat + (subLow a b).2 * 2 ^ 128 ∧
    (subLow a b).1 < 2 ^ 128 := by
  have hla := (lo a).isLt
  have hlb := (lo b).isLt
  unfold subLow
  split <;> omega

section
variable {a b : U256}

/-- Where there is a difference, the high limb of the minuend covers the borrow (R471). -/
theorem hi_covers_borrow (h : b.toNat ≤ a.toNat) : (hi b).toNat + (subLow a b).2 ≤ (hi a).toNat := by
  obtain ⟨hborrow, hlow⟩ := subLow_spec a b
  have hla := (lo a).isLt
  rw [toNat_eq_limbs a, toNat_eq_limbs b] at h
  omega

/-- The limb-wise difference is the difference of the values (R471). -/
theorem subLimbs_eq_sub (h : b.toNat ≤ a.toNat) :
    limbsOfNat ((hi a).toNat - (hi b).toNat - (subLow a b).2) (subLow a b).1 =
      BitVec.ofNat 256 (a.toNat - b.toNat) := by
  obtain ⟨hborrow, hlow⟩ := subLow_spec a b
  have hhigh := hi_covers_borrow h
  rw [limbsOfNat_eq_ofNat _ hlow, toNat_eq_limbs a, toNat_eq_limbs b]
  congr 1
  omega

variable (rd : RegIdx)

theorem computeSub_limbs (h : b.toNat ≤ a.toNat) : computeSub rd a b =
    writesReg rd (limbsOfNat ((hi a).toNat - (hi b).toNat - (subLow a b).2) (subLow a b).1) := by
  have hless : ¬ less a b = true := fun hl => Nat.not_lt.2 h ((less_iff a b).1 hl)
  rw [computeSub, if_neg hless]
  exact if_neg (Nat.not_lt.2 (hi_covers_borrow h))

theorem computeSub_overflow (h : a.toNat < b.toNat) : computeSub rd a b = .error .subOverflow :=
  if_pos ((less_iff a b).2 h)

end

end Sys2Proof.Machine

/-! ### The obligations on addition and subtraction -/

open Sys2Proof Sys2Proof.Machine

/-- Settles O23: the carry chain adds the whole values. -/
theorem addWritesTheTrueSum : Obligations.AddWritesTheTrueSum :=
  fun _ rd _ _ hrun =>
    ⟨fun h => serviceCommand_writesReg hrun ((computeAdd_eq rd _ _).trans (if_neg (Nat.not_le.2 h))),
      fun h => serviceCommand_error hrun ((computeAdd_error_iff rd _ _).2 h)⟩

/-- Settles O24: in limbs, a sum of `2^256` or more is one of the source's two conditions. -/
theorem addFaultsOnEitherSourceCondition : Obligations.AddFaultsOnEitherSourceCondition := by
  intro rd a b
  have hla := (lo a).isLt
  have hlb := (lo b).isLt
  rw [computeAdd_error_iff, toNat_eq_limbs a, toNat_eq_limbs b, max128]
  omega

/-- Settles O25: the borrow chain subtracts the whole values. -/
theorem subWritesTheTrueDifference : Obligations.SubWritesTheTrueDifference :=
  fun _ rd _ _ hrun =>
    ⟨fun h => serviceCommand_writesReg hrun ((computeSub_limbs rd h).trans (congrArg _ (subLimbs_eq_sub h))),
      fun h => serviceCommand_error hrun (computeSub_overflow rd h)⟩

/-- Settles O26: the comparator is the order of the values, and a difference leaves the high limb its borrow. -/
theorem subDefensiveCheckNeverFires : Obligations.SubDefensiveCheckNeverFires :=
  fun rd a b => ⟨fun h => ⟨hi_covers_borrow h, computeSub_limbs rd h⟩,
    fun h => ⟨(less_iff a b).2 h, computeSub_overflow rd h⟩⟩

end

section
/-! The multiplier of spec/42_mul.md. The reference datapath of four partial products is tied to the product of the whole
values (R501, R502); from the product both MUL's effect and the datapath's outputs follow. -/

namespace Sys2Proof.Machine

/-! ### MUL on whole values (R500) -/

/-- MUL splits the product at the limb boundary and writes it whole. -/
theorem computeMul_eq (rd : RegIdx) (a b : U256) : computeMul rd a b =
    if 2 ^ 256 ≤ a.toNat * b.toNat then .error .mulOverflow
    else writesReg rd (BitVec.ofNat 256 (a.toNat * b.toNat)) := by
  have hlow : a.toNat * b.toNat % 2 ^ 128 < 2 ^ 128 := Nat.mod_lt _ (by decide)
  simp only [computeMul, Nat.shiftRight_eq_div_pow, and_max128, limbsOfNat_eq_ofNat _ hlow, Nat.div_add_mod']

/-! ### The reference datapath (R501, R502) -/

section
variable (a b : U256)

/-- The product from the partial products: a cross term weighs `2^128`, the high one `2^256` (R501). -/
theorem partialProducts_value : (partialProducts a b).ll +
    ((partialProducts a b).lh + (partialProducts a b).hl) * 2 ^ 128 + (partialProducts a b).hh * 2 ^ 256 =
      a.toNat * b.toNat := by
  rw [toNat_eq_limbs a, toNat_eq_limbs b]
  simp only [partialProducts]
  ring

theorem mulComb_lo_lt : (mulComb a b).lo < 2 ^ 128 := by
  simp only [mulComb, and_max128]
  exact Nat.mod_lt _ (by decide)

/-- Cutting the cross terms at the limb boundary and carrying the low sum loses nothing (R502). -/
theorem mulComb_value : (mulComb a b).hi * 2 ^ 128 + (mulComb a b).lo = a.toNat * b.toNat := by
  rw [← partialProducts_value a b]
  simp only [mulComb, and_max128, Nat.shiftRight_eq_div_pow, Nat.shiftLeft_eq]
  omega

/-- The high part overflows its limb exactly when the product overflows 256 bits (R502). -/
theorem mulComb_overflow_iff : (mulComb a b).overflow = true ↔ 2 ^ 256 ≤ a.toNat * b.toNat := by
  have hlow := mulComb_lo_lt a b
  have hoverflow : (mulComb a b).overflow = true ↔ 2 ^ 128 ≤ (mulComb a b).hi := decide_eq_true_iff
  rw [hoverflow, ← mulComb_value a b]
  omega

theorem limbsOfNat_mulComb :
    limbsOfNat (mulComb a b).hi (mulComb a b).lo = BitVec.ofNat 256 (a.toNat * b.toNat) := by
  rw [limbsOfNat_eq_ofNat _ (mulComb_lo_lt a b), mulComb_value]

end

end Sys2Proof.Machine

/-! ### The obligations on multiplication -/

open Sys2Proof Sys2Proof.Machine

/-- Settles O27: the two limbs written are the whole product. -/
theorem mulWritesTheExactProduct : Obligations.MulWritesTheExactProduct :=
  fun _ rd _ _ hrun =>
    ⟨fun h => serviceCommand_writesReg hrun ((computeMul_eq rd _ _).trans (if_neg (Nat.not_le.2 h))),
      fun h => serviceCommand_error hrun ((computeMul_eq rd _ _).trans (if_pos h))⟩

/-- Settles O28: both parts of the datapath together are the product, so it overflows and writes as MUL does. -/
theorem mulDatapathGivesTheProduct : Obligations.MulDatapathGivesTheProduct := by
  refine fun rd a b => ⟨mulComb_value a b, mulComb_overflow_iff a b, ?_⟩
  simp only [computeMul_eq, mulComb_overflow_iff, limbsOfNat_mulComb]

end

section
/-! The restoring division engine of spec/43_div.md. Its loop brings down one bit of the dividend at a time; the loop
invariant of R561 ties it to the quotient and remainder of the whole values, from which the effects of DIV and DIVREM
follow. -/

namespace Sys2Proof.Machine

open Sys2Proof.Claims

/-! ### Long division by one more bit, on numbers (R561) -/

section
variable {p d b : Nat}

/-- Where the divisor does not fit, the shifted remainder stands and the quotient's new bit is 0. -/
theorem two_mul_add_div_mod_of_lt (h : 2 * (p % d) + b < d) :
    (2 * p + b) / d = 2 * (p / d) ∧ (2 * p + b) % d = 2 * (p % d) + b := by
  have hp : p % d + d * (p / d) = p := Nat.mod_add_div p d
  exact (Nat.div_mod_unique (by omega)).2 ⟨by linear_combination 2 * hp, h⟩

/-- Where the divisor fits, one subtraction brings the remainder below it and the quotient's new bit is 1. -/
theorem two_mul_add_div_mod_of_le (hd : d ≠ 0) (hb : b < 2) (h : d ≤ 2 * (p % d) + b) :
    (2 * p + b) / d = 2 * (p / d) + 1 ∧ (2 * p + b) % d = 2 * (p % d) + b - d := by
  have hp : p % d + d * (p / d) = p := Nat.mod_add_div p d
  have hrem : p % d < d := Nat.mod_lt p (Nat.pos_of_ne_zero hd)
  have hsub : 2 * (p % d) + b - d + d = 2 * (p % d) + b := Nat.sub_add_cancel h
  exact (Nat.div_mod_unique (by omega)).2 ⟨by linear_combination 2 * hp + hsub, by omega⟩

end

/-- The bits of `n` from place `k` up are those from place `k + 1` up, and bit `k`. -/
theorem div_two_pow_eq (n k : Nat) : n / 2 ^ k = 2 * (n / 2 ^ (k + 1)) + n / 2 ^ k % 2 := by
  rw [pow_succ, ← Nat.div_div_eq_div_mul, Nat.div_add_mod]

/-! ### One iteration (R560) -/

/-- The remainder shifted left, with bit `k` of the dividend brought down (R560). -/
def bringDown (r n : U256) (k : Nat) : U256 := r <<< 1 ||| n >>> k &&& 1

/-- Bringing a bit down loses none (item 1 of R561). -/
theorem bringDown_toNat {r : U256} (h : 2 * r.toNat + 1 < 2 ^ 256) (n : U256) (k : Nat) :
    (bringDown r n k).toNat = 2 * r.toNat + n.toNat / 2 ^ k % 2 := by
  have hbit : n.toNat / 2 ^ k % 2 < 2 ^ 1 := Nat.mod_lt _ (by decide)
  have hshift : r.toNat <<< 1 = 2 * r.toNat := by rw [Nat.shiftLeft_eq, pow_one, Nat.mul_comm]
  have hone : (1 : U256).toNat = 1 := rfl
  rw [bringDown, BitVec.toNat_or, BitVec.toNat_shiftLeft, BitVec.toNat_and, BitVec.toNat_ushiftRight, hone,
    Nat.and_one_is_mod, Nat.shiftRight_eq_div_pow, Nat.mod_eq_of_lt (by omega), ← Nat.shiftLeft_add_eq_or_of_lt hbit,
    hshift]

/-- Setting bit `k` of a quotient with no bit below place `k + 1` adds `2^k`. -/
theorem setQuotientBit_toNat {q : U256} {m k : Nat} (hk : k < 256) (h : q.toNat = m * 2 ^ (k + 1)) :
    (q ||| (1 <<< k : Nat)).toNat = (2 * m + 1) * 2 ^ k := by
  have hlow : 2 ^ k < 2 ^ (k + 1) := Nat.pow_lt_pow_succ (by decide)
  have hbit : 2 ^ k < 2 ^ 256 := Nat.pow_lt_pow_right (by decide) hk
  rw [BitVec.toNat_or, BitVec.natCast_eq_ofNat, BitVec.toNat_ofNat, Nat.one_shiftLeft, Nat.mod_eq_of_lt hbit, h,
    Nat.mul_comm, ← Nat.two_pow_add_eq_or_of_lt hlow]
  ring

/-- The iteration at index `k`, its test read on numbers. -/
theorem engineIterate_eq (e : DivEngine) {k : Nat} (hk : k < 256) :
    engineIterate { e with cnt := BitVec.ofNat 9 k } =
      if (bringDown e.remr e.dvnd k).toNat < e.dvsr.toNat then
        { e with remr := bringDown e.remr e.dvnd k, cnt := BitVec.ofNat 9 k }
      else
        { e with
          remr := bringDown e.remr e.dvnd k - e.dvsr
          quor := e.quor ||| (1 <<< k : Nat)
          cnt := BitVec.ofNat 9 k } := by
  have hcnt : (BitVec.ofNat 9 k).toNat = k := Nat.mod_eq_of_lt (by omega)
  simp only [engineIterate, hcnt]
  exact if_congr (less_iff _ _) rfl rfl

/-! ### The loop invariant (R561) -/

/-- The engine has divided the dividend down to its bit `k`: it holds the remainder and, in its place, the quotient of
the bits from `k` up, and still the operands (R561). -/
structure DividedDownTo (n d : U256) (k : Nat) (e : DivEngine) : Prop where
  remr : e.remr.toNat = n.toNat / 2 ^ k % d.toNat
  quor : e.quor.toNat = n.toNat / 2 ^ k / d.toNat * 2 ^ k
  dvnd : e.dvnd = n
  dvsr : e.dvsr = d

theorem engineStart_dividedDownTo (n d : U256) : DividedDownTo n d 256 (engineStart n d) := by
  have hzero : n.toNat / 2 ^ 256 = 0 := Nat.div_eq_of_lt n.isLt
  refine ⟨?_, ?_, rfl, rfl⟩
  · rw [hzero, Nat.zero_mod]; rfl
  · rw [hzero, Nat.zero_div, Nat.zero_mul]; rfl

section
variable {n d : U256} {k : Nat} {e : DivEngine}

/-- The remainder has room for the shift (item 1 of R561). -/
theorem DividedDownTo.remr_shift_lt (h : DividedDownTo n d (k + 1) e) : 2 * e.remr.toNat + 1 < 2 ^ 256 := by
  have hrem : e.remr.toNat ≤ n.toNat / 2 ^ (k + 1) := h.remr ▸ Nat.mod_le _ _
  have hbits := div_two_pow_eq n.toNat k
  have htop : n.toNat / 2 ^ k ≤ n.toNat := Nat.div_le_self _ _
  have hn := n.isLt
  omega

/-- The iteration at index `k` divides down to bit `k` (item 2 of R561). -/
theorem DividedDownTo.iterate (h : DividedDownTo n d (k + 1) e) (hd : d.toNat ≠ 0) (hk : k < 256) :
    DividedDownTo n d k (engineIterate { e with cnt := BitVec.ofNat 9 k }) := by
  have hshifted := bringDown_toNat h.remr_shift_lt n k
  have hbits := div_two_pow_eq n.toNat k
  rw [h.remr] at hshifted
  rw [engineIterate_eq e hk, h.dvnd, h.dvsr]
  split
  · next hlt =>
    obtain ⟨hquo, hrem⟩ := two_mul_add_div_mod_of_lt (hshifted ▸ hlt)
    rw [← hbits] at hquo hrem
    refine ⟨hshifted.trans hrem.symm, ?_, rfl, rfl⟩
    rw [h.quor, hquo, pow_succ]
    ring
  · next hnlt =>
    have hle := Nat.not_lt.1 hnlt
    obtain ⟨hquo, hrem⟩ := two_mul_add_div_mod_of_le hd (Nat.mod_lt _ (by decide)) (hshifted ▸ hle)
    rw [← hbits] at hquo hrem
    refine ⟨?_, (setQuotientBit_toNat hk h.quor).trans (by rw [hquo]), rfl, rfl⟩
    rw [BitVec.toNat_sub_of_le hle, hshifted, hrem]

theorem engineSteps_dividedDownTo (n : U256) (hd : d.toNat ≠ 0) {j : Nat} (hj : j ≤ 256) :
    DividedDownTo n d (256 - j) (engineSteps n d j) := by
  induction j with
  | zero => exact engineStart_dividedDownTo n d
  | succ j ih =>
    have hdown : 256 - j = 255 - j + 1 := by omega
    have hnext : 256 - (j + 1) = 255 - j := by omega
    rw [hnext]
    exact (hdown ▸ ih (by omega)).iterate hd (by omega)

end

/-- The counted loop goes on from `j` iterations to all 256 of them. -/
theorem engineLoop_engineSteps (n d : U256) {k j : Nat} (h : j + k = 256) :
    engineLoop k (engineSteps n d j) = engineSteps n d 256 := by
  induction k generalizing j with
  | zero => rw [← h]; rfl
  | succ k ih =>
    have hk : k = 255 - j := by omega
    rw [← ih (j := j + 1) (by omega), engineLoop, engineSteps, hk]

theorem engineLoop_engineStart (n d : U256) : engineLoop 256 (engineStart n d) = engineSteps n d 256 :=
  engineLoop_engineSteps n d (j := 0) rfl

/-- After the last iteration the engine holds remainder and quotient of the whole values (item 3 of R561). -/
theorem engineLoop_quor_remr (n : U256) {d : U256} (hd : d.toNat ≠ 0) :
    (engineLoop 256 (engineStart n d)).quor.toNat = n.toNat / d.toNat ∧
      (engineLoop 256 (engineStart n d)).remr.toNat = n.toNat % d.toNat := by
  obtain ⟨hrem, hquo, -, -⟩ := engineSteps_dividedDownTo n hd (le_refl 256)
  rw [Nat.sub_self, pow_zero, Nat.div_one] at hrem hquo
  rw [engineLoop_engineStart]
  exact ⟨hquo.trans (Nat.mul_one _), hrem⟩

/-! ### The engine's answer (R560, R562) -/

theorem divEngine_divByZero (n : U256) {d : U256} (hd : d.toNat = 0) : divEngine n d = .error .divByZero :=
  if_pos (BitVec.eq_of_toNat_eq hd)

/-- The fast path and the loop give one answer (R562). -/
theorem divEngine_ok (n : U256) {d : U256} (hd : d.toNat ≠ 0) :
    divEngine n d = .ok (BitVec.ofNat 256 (n.toNat / d.toNat), BitVec.ofNat 256 (n.toNat % d.toNat)) := by
  have hne : d ≠ 0 := fun h => hd (congrArg BitVec.toNat h)
  obtain ⟨hquo, hrem⟩ := engineLoop_quor_remr n hd
  rw [divEngine, if_neg hne]
  split
  · next hless =>
    have hlt := (less_iff n d).1 hless
    rw [Nat.div_eq_of_lt hlt, Nat.mod_eq_of_lt hlt, BitVec.ofNat_toNat, BitVec.setWidth_eq]
    rfl
  · rw [← hquo, ← hrem]; simp only [BitVec.ofNat_toNat, BitVec.setWidth_eq]

/-! ### DIV and DIVREM (R570, R580) -/

section
variable {s : State} (rd rs1 : RegIdx) {rd2 rs2 : RegIdx}

theorem computeDiv_divByZero (a : U256) {b : U256} (hb : b.toNat = 0) : computeDiv rd a b = .error .divByZero := by
  rw [computeDiv, divEngine_divByZero a hb]

theorem computeDiv_ok (a : U256) {b : U256} (hb : b.toNat ≠ 0) : computeDiv rd a b =
    .ok { regs := [(rd, BitVec.ofNat 256 (a.toNat / b.toNat))], flags := [], usesEngine := true } := by
  rw [computeDiv, divEngine_ok a hb]

theorem computeDivrem_divByZero (a : U256) {b : U256} (hb : b.toNat = 0) :
    computeDivrem rd rd2 a b = .error .divByZero := by
  rw [computeDivrem, divEngine_divByZero a hb]

theorem computeDivrem_ok (a : U256) {b : U256} (hb : b.toNat ≠ 0) : computeDivrem rd rd2 a b =
    .ok { regs := [(rd, BitVec.ofNat 256 (a.toNat / b.toNat)), (rd2, BitVec.ofNat 256 (a.toNat % b.toNat))],
          flags := [], usesEngine := true } := by
  rw [computeDivrem, divEngine_ok a hb]

theorem exec_div_divByZero (hrun : s.status.halted = false) (hd : (s.reg rs2).toNat = 0) :
    exec (.div rd rs1 rs2) s = .next (raiseFault .divByZero s) :=
  serviceCommand_error hrun (computeDiv_divByZero rd _ hd)

theorem exec_div_ok (hrun : s.status.halted = false) (hd : (s.reg rs2).toNat ≠ 0) :
    exec (.div rd rs1 rs2) s = .next (portOut .ok 0
      (releaseEngine (s.setReg rd (BitVec.ofNat 256 ((s.reg rs1).toNat / (s.reg rs2).toNat))))) :=
  serviceCommand_ok hrun (computeDiv_ok rd _ hd)

variable {rd}

theorem exec_divrem_divByZero (hrun : s.status.halted = false) (hne : rd ≠ rd2) (hd : (s.reg rs2).toNat = 0) :
    exec (.divrem rd rd2 rs1 rs2) s = .next (raiseFault .divByZero s) := by
  rw [exec_divrem s rd rd2 rs1 rs2 hne]
  exact serviceCommand_error hrun (computeDivrem_divByZero rd _ hd)

theorem exec_divrem_ok (hrun : s.status.halted = false) (hne : rd ≠ rd2) (hd : (s.reg rs2).toNat ≠ 0) :
    exec (.divrem rd rd2 rs1 rs2) s = .next (portOut .ok 0
      (releaseEngine ((s.setReg rd (BitVec.ofNat 256 ((s.reg rs1).toNat / (s.reg rs2).toNat))).setReg rd2
        (BitVec.ofNat 256 ((s.reg rs1).toNat % (s.reg rs2).toNat))))) := by
  rw [exec_divrem s rd rd2 rs1 rs2 hne]
  exact serviceCommand_ok hrun (computeDivrem_ok rd _ hd)

end

end Sys2Proof.Machine

/-! ### The obligations on division -/

open Sys2Proof Sys2Proof.Machine

/-- Settles O30: each iteration divides down one more bit, and the counted loop runs exactly these iterations. -/
theorem divisionLoopKeepsItsInvariant : Obligations.DivisionLoopKeepsItsInvariant := by
  refine fun n d hd => ⟨engineLoop_engineStart n d, fun j hj => ?_⟩
  obtain ⟨hrem, hquo, hdvnd, hdvsr⟩ := engineSteps_dividedDownTo n hd hj
  exact ⟨hrem, hquo, hdvnd, hdvsr⟩

/-- Settles O29: the loop divides down to bit 0, and the fast path answers what the loop would leave. -/
theorem divisionEngineIsExact : Obligations.DivisionEngineIsExact :=
  fun n _ => ⟨divEngine_divByZero n, fun hd => ⟨divEngine_ok n hd, engineLoop_quor_remr n hd⟩⟩

/-- Settles O31: DIV writes the engine's quotient, and the engine keeps a free value. -/
theorem divWritesTheQuotient : Obligations.DivWritesTheQuotient :=
  fun _ rd rs1 _ hrun => ⟨fun hd => ⟨_, _, exec_div_ok rd rs1 hrun hd⟩, exec_div_divByZero rd rs1 hrun⟩

/-- Settles O32: with `rd` and `rd2` apart both results of the engine are written, and with `rd = rd2` the word is
illegal. -/
theorem divremWritesQuotientAndRemainder : Obligations.DivremWritesQuotientAndRemainder := by
  refine fun s rd rd2 rs1 rs2 hrun => ⟨fun hne hd => ⟨_, _, exec_divrem_ok rs1 hrun hne hd⟩,
    exec_divrem_divByZero rs1 hrun, ?_⟩
  rintro rfl
  exact (exec_divrem_same s rd rs1 rs2).trans (serviceIllegal_running hrun)

/-- Settles O33: quotient times divisor is at most the dividend, so neither the product nor the sum overflows. -/
theorem divremMulAddGivesTheDividend : Obligations.DivremMulAddGivesTheDividend := by
  intro s q r p rs1 rs2 hrun hd hqr hqd hrd hrp
  have hdivrem := exec_divrem_ok rs1 hrun hqr hd
  set n := (s.reg rs1).toNat
  set d := (s.reg rs2).toNat
  set s1 := portOut .ok 0 (releaseEngine ((s.setReg q (BitVec.ofNat 256 (n / d))).setReg r (BitVec.ofNat 256 (n % d))))
  have hn : n < 2 ^ 256 := (s.reg rs1).isLt
  have hprodLt : n / d * d < 2 ^ 256 := (Nat.div_mul_le_self n d).trans_lt hn
  have hquo : (s1.reg q).toNat = n / d := by
    rw [portOut_reg, releaseEngine_reg, reg_setReg_other _ _ hqr.symm, reg_setReg_same]
    exact Nat.mod_eq_of_lt ((Nat.div_le_self n d).trans_lt hn)
  have hdvsr : (s1.reg rs2).toNat = d := by
    rw [portOut_reg, releaseEngine_reg, reg_setReg_other _ _ hrd, reg_setReg_other _ _ hqd]
  have hmul := (mulWritesTheExactProduct s1 p q rs2 hrun).1
  rw [hquo, hdvsr] at hmul
  set s2 := portOut .ok 0 (s1.setReg p (BitVec.ofNat 256 (n / d * d)))
  have hprod : (s2.reg p).toNat = n / d * d := by
    rw [portOut_reg, reg_setReg_same]
    exact Nat.mod_eq_of_lt hprodLt
  have hrem : (s2.reg r).toNat = n % d := by
    rw [portOut_reg, reg_setReg_other _ _ hrp.symm, portOut_reg, releaseEngine_reg, reg_setReg_same]
    exact Nat.mod_eq_of_lt ((Nat.mod_le n d).trans_lt hn)
  have hadd := (addWritesTheTrueSum s2 p p r hrun).1
  rw [hprod, hrem, Nat.div_add_mod'] at hadd
  refine ⟨s1, s2, _, hdivrem, hmul hprodLt, hadd hn, ?_, hrun⟩
  rw [portOut_reg, reg_setReg_same, BitVec.ofNat_toNat, BitVec.setWidth_eq]

end

section
/-! The barrel shifter of spec/44_shift.md. The limb cases of R610 and R620 are tied to one shift of the whole value, and
through it to the product with a power of two (R611) and the quotient by one (R621), from which the laws of R630
follow. -/

namespace Sys2Proof.Machine

/-! ### The limbs of a shifted value (R601) -/

/-- A place at or above 128 holds no bit of a limb; `lo_getLsbD` speaks of the places below. -/
theorem lo_getLsbD_eq (v : U256) (i : Nat) : (lo v).getLsbD i = (decide (i < 128) && v.getLsbD i) := by
  rw [lo, BitVec.getLsbD_extractLsb', Nat.zero_add]

theorem hi_getLsbD_eq (v : U256) (i : Nat) : (hi v).getLsbD i = (decide (i < 128) && v.getLsbD (128 + i)) :=
  BitVec.getLsbD_extractLsb' _ _ v i

section
variable (a : U256) (n : Nat)

theorem lo_shiftLeft : lo (a <<< n) = lo a <<< n := by
  refine BitVec.eq_of_getLsbD_eq fun i hi => ?_
  simp only [lo_getLsbD_eq, BitVec.getLsbD_shiftLeft]
  grind

theorem hi_ushiftRight : hi (a >>> n) = hi a >>> n := by
  refine BitVec.eq_of_getLsbD_eq fun i hi => ?_
  simp only [hi_getLsbD_eq, BitVec.getLsbD_ushiftRight]
  grind

/-- The low limb moves into the high one. -/
theorem hi_shiftLeft_add : hi (a <<< (128 + n)) = lo a <<< n := by
  refine BitVec.eq_of_getLsbD_eq fun i hi => ?_
  simp only [hi_getLsbD_eq, lo_getLsbD_eq, BitVec.getLsbD_shiftLeft, Nat.add_sub_add_left]
  grind

/-- The high limb moves into the low one. -/
theorem lo_ushiftRight_add : lo (a >>> (128 + n)) = hi a >>> n := by
  refine BitVec.eq_of_getLsbD_eq fun i hi => ?_
  simp only [hi_getLsbD_eq, lo_getLsbD_eq, BitVec.getLsbD_ushiftRight, Nat.add_assoc]
  grind

variable {n} (h : n < 128)
include h

/-- The bits that leave the low limb enter the high one below place `n`. -/
theorem hi_shiftLeft : hi (a <<< n) = hi a <<< n ||| lo a >>> (128 - n) := by
  refine BitVec.eq_of_getLsbD_eq fun i hi => ?_
  simp only [hi_getLsbD_eq, lo_getLsbD_eq, BitVec.getLsbD_or, BitVec.getLsbD_shiftLeft, BitVec.getLsbD_ushiftRight]
  rcases Nat.lt_or_ge i n with hcarried | hkept
  · grind
  · grind

/-- The bits that leave the high limb enter the low one from place `128 - n` up. -/
theorem lo_ushiftRight : lo (a >>> n) = lo a >>> n ||| hi a <<< (128 - n) := by
  refine BitVec.eq_of_getLsbD_eq fun i hi => ?_
  simp only [hi_getLsbD_eq, lo_getLsbD_eq, BitVec.getLsbD_or, BitVec.getLsbD_shiftLeft, BitVec.getLsbD_ushiftRight]
  rcases Nat.lt_or_ge i (128 - n) with hkept | hcarried
  · grind
  · grind

end

/-! ### The shifter on whole values (R611, R621) -/

section
variable (a b : U256)

theorem shiftLeft_eq : shiftLeft a b = a <<< b.toNat := by
  simp only [shiftLeft]
  split_ifs with hlimit hzero hhalf
  · exact (BitVec.shiftLeft_eq_zero hlimit).symm
  · rw [hzero, BitVec.shiftLeft_zero]
  · obtain ⟨k, hk⟩ := Nat.exists_eq_add_of_le hhalf
    rw [← limbs_hi_lo (a <<< b.toNat), lo_shiftLeft, BitVec.shiftLeft_eq_zero hhalf, hk, hi_shiftLeft_add,
      Nat.add_sub_cancel_left]
    rfl
  · rw [← limbs_hi_lo (a <<< b.toNat), lo_shiftLeft, hi_shiftLeft a (Nat.not_le.1 hhalf)]

theorem shiftRight_eq : shiftRight a b = a >>> b.toNat := by
  simp only [shiftRight]
  split_ifs with hlimit hzero hhalf
  · exact (BitVec.ushiftRight_eq_zero hlimit).symm
  · rw [hzero, BitVec.ushiftRight_zero]
  · obtain ⟨k, hk⟩ := Nat.exists_eq_add_of_le hhalf
    rw [← limbs_hi_lo (a >>> b.toNat), hi_ushiftRight, BitVec.ushiftRight_eq_zero hhalf, hk, lo_ushiftRight_add,
      Nat.add_sub_cancel_left]
    rfl
  · rw [← limbs_hi_lo (a >>> b.toNat), hi_ushiftRight, lo_ushiftRight a (Nat.not_le.1 hhalf)]

theorem shiftLeft_toNat : (shiftLeft a b).toNat = a.toNat * 2 ^ b.toNat % 2 ^ 256 := by
  rw [shiftLeft_eq, BitVec.toNat_shiftLeft, Nat.shiftLeft_eq]

theorem shiftRight_toNat : (shiftRight a b).toNat = a.toNat / 2 ^ b.toNat := by
  rw [shiftRight_eq, BitVec.toNat_ushiftRight, Nat.shiftRight_eq_div_pow]

variable {b}

theorem shiftLeft_eq_zero (h : 256 ≤ b.toNat) : shiftLeft a b = 0 :=
  (shiftLeft_eq a b).trans (BitVec.shiftLeft_eq_zero h)

theorem shiftRight_eq_zero (h : 256 ≤ b.toNat) : shiftRight a b = 0 :=
  (shiftRight_eq a b).trans (BitVec.ushiftRight_eq_zero h)

theorem shiftLeft_zero (h : b.toNat = 0) : shiftLeft a b = a := by
  rw [shiftLeft_eq, h, BitVec.shiftLeft_zero]

theorem shiftRight_zero (h : b.toNat = 0) : shiftRight a b = a := by
  rw [shiftRight_eq, h, BitVec.ushiftRight_zero]

end

section
variable {s : State} (rd rs1 rs2 : RegIdx) (hrun : s.status.halted = false)
include hrun

theorem exec_shl_running : exec (.shl rd rs1 rs2) s =
    .next (portOut .ok 0 (s.setReg rd (shiftLeft (s.reg rs1) (s.reg rs2)))) :=
  serviceCommand_writesReg (f := computeShl rd) hrun rfl

theorem exec_shr_running : exec (.shr rd rs1 rs2) s =
    .next (portOut .ok 0 (s.setReg rd (shiftRight (s.reg rs1) (s.reg rs2)))) :=
  serviceCommand_writesReg (f := computeShr rd) hrun rfl

end

/-! ### When one shift undoes the other (R630) -/

section
variable (a : U256) {b : U256}

/-- The shift left cuts `256 - count` bits of the value out of it, and the shift right brings these back. -/
theorem shiftRight_shiftLeft_toNat (h : b.toNat < 256) :
    (shiftRight (shiftLeft a b) b).toNat = a.toNat % 2 ^ (256 - b.toNat) := by
  have hsplit : 2 ^ 256 = 2 ^ (256 - b.toNat) * 2 ^ b.toNat := by rw [← pow_add, Nat.sub_add_cancel h.le]
  rw [shiftRight_toNat, shiftLeft_toNat, hsplit, Nat.mul_mod_mul_right, Nat.mul_div_cancel _ (Nat.two_pow_pos _)]

theorem shiftLeft_shiftRight_toNat (b : U256) :
    (shiftLeft (shiftRight a b) b).toNat = a.toNat / 2 ^ b.toNat * 2 ^ b.toNat := by
  rw [shiftLeft_toNat, shiftRight_toNat]
  exact Nat.mod_eq_of_lt ((Nat.div_mul_le_self _ _).trans_lt a.isLt)

/-- No set bit leaves at the top exactly when the leading zeros cover the count (item 1 of R630). -/
theorem shiftRight_shiftLeft_eq_iff (h : b.toNat < 256) :
    shiftRight (shiftLeft a b) b = a ↔ b.toNat ≤ 256 - Nat.size a.toNat := by
  have hsize : Nat.size a.toNat ≤ 256 := Nat.size_le.2 a.isLt
  rw [← BitVec.toNat_inj, shiftRight_shiftLeft_toNat a h, Nat.mod_eq_iff_lt (Nat.two_pow_pos _).ne', ← Nat.size_le]
  omega

/-- No set bit leaves at the bottom exactly when the trailing zeros cover the count (item 2 of R630). -/
theorem shiftLeft_shiftRight_eq_iff (b : U256) :
    shiftLeft (shiftRight a b) b = a ↔ a = 0 ∨ b.toNat ≤ padicValNat 2 a.toNat := by
  have hzero : a.toNat = 0 ↔ a = 0 := BitVec.toNat_inj (y := 0)
  rw [← BitVec.toNat_inj, shiftLeft_shiftRight_toNat, ← Nat.dvd_iff_div_mul_eq, padicValNat_dvd_iff, hzero]

end

end Sys2Proof.Machine

/-! ### The obligations on shifts -/

open Sys2Proof Sys2Proof.Machine

/-- Settles O34: the limb cases of SHL are one shift of the whole value. -/
theorem shlMultipliesByAPowerOfTwo : Obligations.ShlMultipliesByAPowerOfTwo := by
  intro s rd rs1 rs2 hrun
  rw [exec_shl_running rd rs1 rs2 hrun]
  split
  · rw [← shiftLeft_toNat, BitVec.ofNat_toNat, BitVec.setWidth_eq]
  · next hlarge => rw [shiftLeft_eq_zero _ (Nat.not_lt.1 hlarge)]

/-- Settles O35: the limb cases of SHR are one shift of the whole value. -/
theorem shrDividesByAPowerOfTwo : Obligations.ShrDividesByAPowerOfTwo :=
  fun _ rd rs1 rs2 hrun => ⟨_, exec_shr_running rd rs1 rs2 hrun, shiftRight_toNat _ _, shiftRight_eq_zero _⟩

/-- Settles O36: on numbers, the shifts there and back keep the value's low bits or its multiple of a power of two. -/
theorem shiftsUndoEachOtherExactlyThen : Obligations.ShiftsUndoEachOtherExactlyThen := by
  refine fun a b => ⟨fun h => ?_, fun _ => shiftLeft_shiftRight_eq_iff a b,
    fun h => ⟨shiftLeft_zero a h, shiftRight_zero a h⟩, fun h => ⟨shiftLeft_eq_zero a h, shiftRight_eq_zero a h⟩⟩
  rw [shiftRight_shiftLeft_eq_iff a h]
  refine ⟨.inr, ?_⟩
  rintro (rfl | hle)
  · exact h.le
  · exact hle

end

section
/-! OR, CMP and the pseudo-instructions of spec/45_or_cmp.md and spec/30_encoding.md. OR and the comparator work
in limbs; here they are tied to the whole values (R9), from which the effects of OR, CMP, MV and CLR follow. -/

namespace Sys2Proof.Machine

/-! ### OR (R650) -/

theorem hi_or (a b : U256) : hi (a ||| b) = hi a ||| hi b := BitVec.extractLsb'_or

theorem lo_or (a b : U256) : lo (a ||| b) = lo a ||| lo b := BitVec.extractLsb'_or

/-- OR limb by limb is OR of the whole values. -/
theorem computeOr_eq (rd : RegIdx) (a b : U256) : computeOr rd a b = writesReg rd (a ||| b) := by
  rw [computeOr, ← hi_or, ← lo_or, limbs_hi_lo]

/-! ### CMP (R660, R670) -/

theorem comparisonFlags_compare (m n : Nat) : comparisonFlags (compare m n) =
    [(.lt, decide (m < n)), (.eq, decide (m = n)), (.gt, decide (n < m))] := by
  simp only [comparisonFlags, Nat.compare_eq_lt, Nat.compare_eq_eq, Nat.compare_eq_gt]

/-- The limb-wise comparison writes the flags of the numeric one. -/
theorem computeCmp_eq (a b : U256) : computeCmp a b =
    writesFlags [(.lt, decide (a.toNat < b.toNat)), (.eq, decide (a.toNat = b.toNat)),
      (.gt, decide (b.toNat < a.toNat))] := by
  rw [computeCmp, cmp3_eq_compare, comparisonFlags_compare]

/-! ### MV and CLR (R341) -/

/-- OR of a value with itself copies it. -/
theorem computeOr_self (rd : RegIdx) (a : U256) : computeOr rd a a = writesReg rd a := by
  rw [computeOr_eq, BitVec.or_self]

/-- A value minus itself never borrows and is 0. -/
theorem computeSub_self (rd : RegIdx) (a : U256) : computeSub rd a a = writesReg rd 0 := by
  rw [computeSub_limbs rd le_rfl, subLimbs_eq_sub le_rfl, Nat.sub_self]
  rfl

end Sys2Proof.Machine

/-! ### The obligations on OR, comparison and the pseudo-instructions -/

open Sys2Proof Sys2Proof.Machine

/-- Settles O37: the OR of the limbs is the OR of the whole values. -/
theorem orWritesTheBitwiseOr : Obligations.OrWritesTheBitwiseOr :=
  fun _ rd _ _ hrun => ⟨serviceCommand_writesReg hrun (computeOr_eq rd _ _), hi_or _ _, lo_or _ _⟩

/-- Settles O38: the comparator is the comparison of the numbers. -/
theorem limbOrderIsTheNumericOrder : Obligations.LimbOrderIsTheNumericOrder := by
  intro a b
  rw [cmp3_eq_compare]
  exact ⟨Nat.compare_eq_lt, Nat.compare_eq_eq, Nat.compare_eq_gt⟩

/-- Settles O39: CMP writes the flags of the numeric comparison, and no other flag. -/
theorem cmpWritesTheThreeFlags : Obligations.CmpWritesTheThreeFlags :=
  fun _ _ _ hrun => serviceCommand_writesFlags hrun (computeCmp_eq _ _)

/-- Settles O40: OR of a value with itself is the value, and a value minus itself is 0 without a borrow. -/
theorem pseudoInstructionsAreTheirExpansions : Obligations.PseudoInstructionsAreTheirExpansions :=
  fun _ rd _ => ⟨rfl, rfl, rfl, rfl, fun hrun =>
    ⟨serviceCommand_writesReg hrun (computeOr_self rd _), serviceCommand_writesReg hrun (computeSub_self rd _)⟩⟩

end

section
/-! Faults and HALTED of spec/60_exceptions.md. A halted core answers every transaction out of its registers and STATUS,
which it keeps (`exec_halted`), so a run from it changes nothing (`runSteps_halted`). A running core halts by a fault
alone (`exec_halts`), and the fault is the one of its row of R700 (`exec_followsFaultTable`). -/

namespace Sys2Proof.Machine

open Sys2Proof.Claims

/-! ### Nothing to do (R734), and reset (R801) -/

theorem step_idle {s : State} (hidle : s.inService = none) (hinbox : s.inbox = []) : step s = .next s := by
  simp only [step, nextTransaction, hidle, hinbox]

theorem step_reset {s : State} {rest : List HostEvent} (hinbox : s.inbox = .reset :: rest) :
    step s = .next (hostReset rest s) := by
  simp only [step, hinbox]

/-! ### A halted core (R712) -/

theorem exec_refused {i : Instr} {s : State} (hr : isRead i = false) (hh : s.status.halted = true) :
    exec i s = .next (refuseHalted s) := by
  obtain ⟨rs1, rs2, f, h⟩ := exec_eq_serviceCommand hr
  exact (h s).trans (serviceCommand_halted rs1 rs2 f hh)

theorem isRead_of_isCommand {i : Instr} (hc : i.isCommand = true) : isRead i = false := by
  cases i with
  | store | rdstatus => cases hc
  | _ => rfl

/-- A halted core sends R712's response and does nothing else. -/
theorem exec_halted {s : State} (hh : s.status.halted = true) (t : Transaction) :
    exec (decodeTransaction t) s = .next (portOut (haltedResponse s t).code (haltedResponse s t).rdata s) := by
  unfold haltedResponse
  split
  · next r e hd => rw [hd]; rfl
  · next hd => rw [hd]; rfl
  · next hstore hrdstatus =>
    refine exec_refused ?_ hh
    cases hd : decodeTransaction t with
    | store r e => exact absurd hd (hstore r e)
    | rdstatus => exact absurd hd hrdstatus
    | _ => rfl

theorem step_halted {t : Transaction} {ts : List Transaction} {rest : List HostEvent} {s : State}
    (hoffers : Offers (t :: ts) rest s) (hh : s.status.halted = true) :
    step s = .next (portOut (haltedResponse s t).code (haltedResponse s t).rdata
      (portIn t (ts.map .request ++ rest) s)) :=
  hoffers.step_eq.trans (exec_halted (s := portIn t (ts.map .request ++ rest) s) hh t)

/-- R713: the transactions offered to a halted core leave registers and STATUS, and so the answers to those behind them,
as they were. -/
theorem runSteps_halted {ts : List Transaction} {rest : List HostEvent} {s : State} (hoffers : Offers ts rest s)
    (hh : s.status.halted = true) :
    ∃ s', runSteps ts.length s = .next s' ∧ s'.regs = s.regs ∧ s'.status = s.status ∧
      s'.responses = s.responses ++ ts.map (haltedResponse s) := by
  induction ts generalizing s with
  | nil => exact ⟨s, rfl, rfl, rfl, (List.append_nil _).symm⟩
  | cons t ts ih =>
    have hstep := step_halted hoffers hh
    obtain ⟨s', hrun, hregs, hstatus, hresp⟩ :=
      ih (s := portOut _ _ (portIn t (ts.map .request ++ rest) s)) ⟨rfl, rfl⟩ hh
    refine ⟨s', (runSteps_succ_next _ hstep).trans hrun, hregs, hstatus, hresp.trans ?_⟩
    exact List.append_assoc s.responses [haltedResponse s t] (ts.map (haltedResponse s))

theorem runProgram_halted (ts : List Transaction) {s : State} (hh : s.status.halted = true) :
    ∃ s', runProgram ts s = .next s' ∧ s'.regs = s.regs ∧ s'.status = s.status ∧
      s'.responses = ts.map (haltedResponse s) :=
  runSteps_halted (launch_offers ts s) hh

/-! ### A fault is precise (R710) -/

/-- A running core halts by a fault, and a fault is all that it then does. -/
theorem exec_halts {i : Instr} {s s' : State} (hrun : s.status.halted = false) (h : exec i s = .next s')
    (hh : s'.status.halted = true) : ∃ c, s' = raiseFault c s := by
  rcases exec_completes h with ⟨hhalted, -⟩ | ⟨c, -, hs'⟩ | ⟨w, d, rfl⟩
  · exact absurd hhalted (by simp [hrun])
  · exact ⟨c, hs'⟩
  · obtain ⟨hkeep, -⟩ := performWrites_frame w s
    exact absurd hh (by simp [hkeep, hrun])

theorem runProgram_singleton (t : Transaction) (s : State) :
    runProgram [t] s = exec (decodeTransaction t) (portIn t [] (s.launch [t])) := by
  obtain ⟨s', h, -⟩ := (launch_offers [t] s).step_next
  rw [runProgram_eq, List.length_singleton, runSteps_succ_next 0 h, runSteps_zero, ← h]
  exact (launch_offers [t] s).step_eq

/-- A transaction that halts a running core leaves the registers. -/
theorem runProgram_singleton_halts_regs {t : Transaction} {s s' : State} (hrun : s.status.halted = false)
    (h : runProgram [t] s = .next s') (hh : s'.status.halted = true) : s'.regs = s.regs := by
  rw [runProgram_singleton] at h
  obtain ⟨c, rfl⟩ := exec_halts (s := portIn t [] (s.launch [t])) hrun h hh
  rfl

/-! ### The table of faults (R700) -/

/-- The one fault that the table lets an instruction raise; with `rd = rd2` the word of a DIVREM is illegal (R334). -/
def tableCause : Instr → Option FaultCause
  | .add _ _ _         => some .addOverflow
  | .sub _ _ _         => some .subOverflow
  | .mul _ _ _         => some .mulOverflow
  | .div _ _ _         => some .divByZero
  | .divrem rd rd2 _ _ => some (if rd = rd2 then .illegalCommand else .divByZero)
  | .bitat _ _         => some .badIndex
  | .setbit _ _ _      => some .badIndex
  | .illegal _         => some .illegalCommand
  | _                  => none

theorem tableCause_of_raisesOf {i : Instr} {s : State} {c : FaultCause} (h : raisesOf i s c) :
    tableCause i = some c := by
  unfold raisesOf at h
  split at h
  case h_5 =>
    obtain ⟨hne, -⟩ := h
    rw [tableCause, if_neg hne]
  case h_6 => rw [tableCause, if_pos h]
  case h_10 => exact h.elim
  all_goals rfl

/-- A running core raises the fault of a row that `i` meets; if it meets none, the core still runs afterwards. -/
structure FollowsFaultTable (i : Instr) (s : State) : Prop where
  faults (c : FaultCause) : raisesOf i s c → exec i s = .next (raiseFault c s)
  completes : (∀ c, ¬ raisesOf i s c) → ∃ s', exec i s = .next s' ∧ s'.status.halted = false

namespace FollowsFaultTable

variable {i : Instr} {s : State}

theorem of_cause {c : FaultCause} (hc : tableCause i = some c)
    (hfault : raisesOf i s c → exec i s = .next (raiseFault c s))
    (hok : ¬ raisesOf i s c → ∃ s', exec i s = .next s' ∧ s'.status.halted = false) : FollowsFaultTable i s where
  faults c' h := by
    cases hc.symm.trans (tableCause_of_raisesOf h)
    exact hfault h
  completes hnone := hok (hnone c)

theorem of_no_cause (hc : tableCause i = none) {s' : State} (h : exec i s = .next s')
    (hrun : s'.status.halted = false) : FollowsFaultTable i s where
  faults _ hraise := nomatch hc.symm.trans (tableCause_of_raisesOf hraise)
  completes _ := ⟨s', h, hrun⟩

end FollowsFaultTable

theorem exec_followsFaultTable_of_ne_exec {i : Instr} (hi : ∀ w, i ≠ .exec w) {s : State}
    (hrun : s.status.halted = false) : FollowsFaultTable i s := by
  cases i with
  | exec w => exact absurd rfl (hi w)
  | load r e data => exact .of_no_cause rfl (exec_load_running hrun r e data) hrun
  | store r e => exact .of_no_cause rfl (exec_store s r e) hrun
  | rdstatus => exact .of_no_cause rfl (exec_rdstatus s) hrun
  | add rd rs1 rs2 =>
    obtain ⟨hok, hfault⟩ := addWritesTheTrueSum s rd rs1 rs2 hrun
    exact .of_cause rfl hfault fun h => ⟨_, hok (Nat.not_le.1 h), hrun⟩
  | sub rd rs1 rs2 =>
    obtain ⟨hok, hfault⟩ := subWritesTheTrueDifference s rd rs1 rs2 hrun
    exact .of_cause rfl hfault fun h => ⟨_, hok (Nat.not_lt.1 h), hrun⟩
  | mul rd rs1 rs2 =>
    obtain ⟨hok, hfault⟩ := mulWritesTheExactProduct s rd rs1 rs2 hrun
    exact .of_cause rfl hfault fun h => ⟨_, hok (Nat.not_le.1 h), hrun⟩
  | div rd rs1 rs2 =>
    exact .of_cause rfl (exec_div_divByZero rd rs1 hrun) fun h => ⟨_, exec_div_ok rd rs1 hrun h, hrun⟩
  | divrem rd rd2 rs1 rs2 =>
    rcases eq_or_ne rd rd2 with rfl | hne
    · exact .of_cause (congrArg some (if_pos rfl))
        (fun _ => (exec_divrem_same s rd rs1 rs2).trans (serviceIllegal_running hrun)) fun h => absurd rfl h
    · exact .of_cause (congrArg some (if_neg hne)) (fun h => exec_divrem_divByZero rs1 hrun hne h.2)
        fun h => ⟨_, exec_divrem_ok rs1 hrun hne fun hd => h ⟨hne, hd⟩, hrun⟩
  | shl rd rs1 rs2 => exact .of_no_cause rfl (exec_shl_running rd rs1 rs2 hrun) hrun
  | shr rd rs1 rs2 => exact .of_no_cause rfl (exec_shr_running rd rs1 rs2 hrun) hrun
  | or rd rs1 rs2 => exact .of_no_cause rfl (orWritesTheBitwiseOr s rd rs1 rs2 hrun).1 hrun
  | cmp rs1 rs2 => exact .of_no_cause rfl (cmpWritesTheThreeFlags s rs1 rs2 hrun) hrun
  | bitat rs1 rs2 =>
    obtain ⟨hok, hfault⟩ := bitatReadsTheIndexedBit s rs1 rs2 hrun
    exact .of_cause rfl hfault fun h => ⟨_, hok (Nat.not_le.1 h), hrun⟩
  | setbit rd rs1 rs2 =>
    obtain ⟨hok, hfault⟩ := setbitSetsTheIndexedBit s rd rs1 rs2 hrun
    exact .of_cause rfl hfault fun h => ⟨_, hok (Nat.not_le.1 h), hrun⟩
  | illegal w => exact .of_cause rfl (fun _ => serviceIllegal_running hrun) fun h => absurd trivial h
  | mv rd rs => exact .of_no_cause rfl (serviceCommand_writesReg hrun (computeOr_self rd (s.reg rs))) hrun
  | clr rd => exact .of_no_cause rfl (serviceCommand_writesReg hrun (computeSub_self rd (s.reg rd))) hrun

theorem exec_followsFaultTable (i : Instr) {s : State} (hrun : s.status.halted = false) :
    FollowsFaultTable i.expand s :=
  exec_followsFaultTable_of_ne_exec (expand_ne_exec i) hrun

end Sys2Proof.Machine

/-! ### The obligations on faults and HALTED -/

open Sys2Proof Sys2Proof.Machine Sys2Proof.Claims

/-- Settles O44: each transaction leaves a halted core as the next one finds it, and a reset gives the reset state. -/
theorem onlyResetLeavesHalted : Obligations.OnlyResetLeavesHalted :=
  ⟨fun ts _ => runProgram_halted ts, fun s rest hinbox => ⟨_, step_reset hinbox, rfl, rfl, hostReset_reg rest s⟩⟩

/-- Settles O41: only a fault halts a running core. -/
theorem faultsArePrecise : Obligations.FaultsArePrecise := by
  intro i s s' hrun h hh
  obtain ⟨c, rfl⟩ := exec_halts hrun h hh
  exact ⟨c, rfl, rfl, rfl, rfl, rfl, rfl⟩

/-- Settles O42: an instruction and its expansion raise the same faults, and a core that runs on raised none. -/
theorem onlyTheListedFaultsAreRaised : Obligations.OnlyTheListedFaultsAreRaised := by
  intro i s hrun
  obtain ⟨hfaults, hcompletes⟩ := exec_followsFaultTable i hrun
  rw [exec_expand] at hfaults hcompletes
  refine ⟨hfaults, fun hnone => ?_⟩
  obtain ⟨s', h, hrun'⟩ := hcompletes hnone
  exact ⟨s', h, hrun', (exec_running h hrun').2⟩

/-- Settles O45: the faulting transaction keeps the registers, and the halted core keeps both. -/
theorem faultingRunKeepsTheStateBeforeTheFault : Obligations.FaultingRunKeepsTheStateBeforeTheFault := by
  intro ts us t s s1 s2 h1 hrun h2 hh
  obtain ⟨u, hu, -⟩ := runProgram_next [t] s1
  obtain ⟨s2', h2', hfault⟩ := runProgram_append h1 hu
  cases h2.symm.trans h2'
  have huregs : u.regs = s1.regs := runProgram_singleton_halts_regs hrun hu (hfault.status ▸ hh)
  obtain ⟨v, hv, hvregs, hvstatus, -⟩ := runProgram_halted us hh
  obtain ⟨s3, h3, hrest⟩ := runProgram_append h2 hv
  rw [List.append_assoc, List.singleton_append] at h3
  refine ⟨s3, h3, ?_, hrest.status.trans hvstatus⟩
  rw [hrest.regs, hvregs, hfault.regs, huregs]

/-- Settles O5. -/
theorem idleCoreKeepsItsState : Obligations.IdleCoreKeepsItsState := fun _ => step_idle

/-- Settles O43: what is no read is refused, and a read does not look at HALTED. -/
theorem haltedCoreRefusesLoadAndExec : Obligations.HaltedCoreRefusesLoadAndExec :=
  fun s hh => ⟨fun _ _ _ => exec_refused rfl hh, fun _ => exec_refused rfl hh,
    fun _ hc => exec_refused (isRead_of_isCommand hc) hh, exec_store s, exec_rdstatus s⟩

end

section
/-! Reset and the latencies of spec/70_reset_and_hazards.md. The reset event is `step_reset`; the reset input is two
edges at signal level (`clockEdge_rst`, `clockEdge_inReset`). A latency is 1 where the core is halted and the row's
otherwise (`latency_halted`, `latency_running`), and a DIVREM takes a division's time since the decoder gives none with
`rd = rd2`. -/

namespace Sys2Proof

/-- The decoder gives instructions of the hardware only (R334, R335). -/
theorem decode_wellFormed (t : Transaction) : (decode t).wellFormed = true := by
  unfold decode decodeKind
  split
  case h_3 => exact decodeCommand_wellFormed t.cmd
  all_goals rfl

theorem ne_of_decode_eq_divrem {t : Transaction} {rd rd2 rs1 rs2 : RegIdx} (h : decode t = .divrem rd rd2 rs1 rs2) :
    rd ≠ rd2 := by
  have hwf := decode_wellFormed t
  rw [h] at hwf
  exact of_decide_eq_true hwf

end Sys2Proof

namespace Sys2Proof.Machine

open Sys2Proof.Claims

/-! ### The reset input (R800) -/

theorem clockEdge_rst {p : PinsIn} (hrst : p.rst = true) (c : ClockState) :
    clockEdge p c = .next { core := hostReset [] c.core, phase := .inReset, offer := offerOf p } := by
  simp [clockEdge, hrst]

theorem clockEdge_inReset {p : PinsIn} {c : ClockState} (hrst : p.rst = false)
    (hheld : handshakeBroken p c.offer = false) (hphase : c.phase = .inReset) :
    clockEdge p c = .next { c with phase := .ready, offer := offerOf p } := by
  simp [clockEdge, hrst, hheld, hphase]

theorem handshakeBroken_offerOf {p q : PinsIn} (hheld : p.reqValid = true → q.reqValid = true ∧ q.req = p.req) :
    handshakeBroken q (offerOf p) = false := by
  cases hp : p.reqValid with
  | false => simp [offerOf, hp, handshakeBroken]
  | true =>
    obtain ⟨hvalid, hsame⟩ := hheld hp
    simp [offerOf, hp, handshakeBroken, hvalid, hsame]

theorem pinsOut_true (c : ClockState) : pinsOut true c = { reqReady := false, rsp := none } := by
  simp [pinsOut]

theorem pinsOut_inReset (rst : Bool) {c : ClockState} (hphase : c.phase = .inReset) :
    pinsOut rst c = { reqReady := false, rsp := none } := by
  simp [pinsOut, hphase]

theorem pinsOut_ready {c : ClockState} (hphase : c.phase = .ready) :
    pinsOut false c = { reqReady := true, rsp := none } := by
  simp [pinsOut, hphase]

/-! ### The latencies (R830) -/

theorem latency_halted {s : State} (hh : s.status.halted = true) (t : Transaction) : latency t s = 1 := if_pos hh

theorem latency_running {s : State} (hrun : s.status.halted = false) (t : Transaction) :
    latency t s = serviceLatency (decode t) s := by
  simp [latency, hrun]

theorem serviceLatency_of_takesOneCycle {i : Instr} (h : takesOneCycle i = true) (s : State) :
    serviceLatency i s = 1 := by
  cases i with
  | exec | mul | div | divrem | mv | clr => cases h
  | _ => rfl

/-- The divider's two tests, on the operands' values (R830). -/
theorem divLatency_eq (s : State) (rs1 rs2 : RegIdx) : divLatency s rs1 rs2 =
    if (s.reg rs2).toNat = 0 ∨ (s.reg rs1).toNat < (s.reg rs2).toNat then 1 else 257 := by
  have hzero : s.reg rs2 = 0 ↔ (s.reg rs2).toNat = 0 := BitVec.toNat_inj.symm
  simp only [divLatency, less_iff, hzero]

theorem latency_division {s : State} (hrun : s.status.halted = false) {t : Transaction} {rd rd2 rs1 rs2 : RegIdx}
    (h : decode t = .div rd rs1 rs2 ∨ decode t = .divrem rd rd2 rs1 rs2) : latency t s = divLatency s rs1 rs2 := by
  rw [latency_running hrun]
  rcases h with hdiv | hdivrem
  · rw [hdiv]; rfl
  · rw [hdivrem]; exact if_neg (ne_of_decode_eq_divrem hdivrem)

end Sys2Proof.Machine

/-! ### The obligations on reset and on the latencies -/

open Sys2Proof Sys2Proof.Machine Sys2Proof.Claims

/-- Settles O60: of the divider's two cases the operands choose one. -/
theorem latencyIsTheTable : Obligations.LatencyIsTheTable := by
  refine ⟨Nat.le_add_left 1 _, fun t s => ⟨fun hh => latency_halted hh t, fun hone => ?_, fun hrun rd rd2 rs1 rs2 =>
    ⟨fun hmul => ?_, fun hdivision => ⟨fun hfast => ?_, fun hne hle => ?_⟩⟩⟩⟩
  · cases hh : s.status.halted with
    | true => exact latency_halted hh t
    | false => exact (latency_running hh t).trans (serviceLatency_of_takesOneCycle hone s)
  · rw [latency_running hrun, hmul]; rfl
  · rw [latency_division hrun hdivision, divLatency_eq, if_pos hfast]
  · rw [latency_division hrun hdivision, divLatency_eq, if_neg (not_or.2 ⟨hne, hle.not_gt⟩)]

/-- Settles O2. -/
theorem resetEventGivesTheResetState : Obligations.ResetEventGivesTheResetState :=
  fun s rest hinbox => ⟨_, step_reset hinbox, hostReset_reg rest s, rfl, rfl, rfl, rfl, rfl⟩

/-- Settles O57: the edge with `rst = 1` leaves the block in reset, and the next with `rst = 0` only makes it ready. -/
theorem resetInputResetsTheBlock : Obligations.ResetInputResetsTheBlock := by
  intro c p q hp
  refine ⟨_, clockEdge_rst hp c, hostReset_reg [] c.core, rfl, rfl, rfl, pinsOut_true c,
    fun rst => pinsOut_inReset rst rfl, fun hq hheld => ?_⟩
  exact ⟨_, clockEdge_inReset hq (handshakeBroken_offerOf hheld) rfl, rfl, pinsOut_ready rfl⟩

end
